-- ==== Sys2Proof/Word.lean ====
section
/-! DEFINITION. The word types of the chip8rs CORE: bytes, 16-bit words, nibbles, register and key numbers. -/

namespace Sys2Proof

/-- An 8-bit unsigned value: a register, a timer, a byte of memory (00_scope.md R5, R12; 20_memory.md R60). -/
abbrev Byte := BitVec 8

/-- A 16-bit unsigned value: PC, I, a stack entry (00_scope.md R7, R12). -/
abbrev Addr := BitVec 16

/-- One fetched 16-bit instruction word (00_scope.md, glossary; 30_encoding.md R80). -/
abbrev Opcode := BitVec 16

/-- A 4-bit field of an opcode that is not a register selector (00_scope.md R15). -/
abbrev Nibble := BitVec 4

/-- A general register's number, 0x0 to 0xF (10_state.md R30). -/
abbrev RegIdx := Fin 16

/-- A logical key, 0x0 to 0xF (00_scope.md R11). -/
abbrev Key := Fin 16

end Sys2Proof
end

