-- ==== Sys2Proof/Syntax.lean ====
section
/-! DEFINITION. The instructions: one constructor per row of spec/opcode_table.json, in the table's order. -/

namespace Sys2Proof

/-- The 34 operations of 30_encoding.md R90 and the no-op of R87. A field `z` is a nibble the decoder ignores (R85, R86),
kept so that an instruction determines its opcode (log 9); `x` and `y` are register selectors, `nn`, `nnn` and `n` the
literals of R81. -/
inductive Instr where
  | clear (z : Nibble)
  | ret (z : Nibble)
  | jump (nnn : BitVec 12)
  | call (nnn : BitVec 12)
  | skipEq (x : RegIdx) (nn : Byte)
  | skipNe (x : RegIdx) (nn : Byte)
  | skipEqReg (x y : RegIdx) (z : Nibble)
  | load (x : RegIdx) (nn : Byte)
  | addImm (x : RegIdx) (nn : Byte)
  | move (x y : RegIdx)
  | or (x y : RegIdx)
  | and (x y : RegIdx)
  | xor (x y : RegIdx)
  | add (x y : RegIdx)
  | sub (x y : RegIdx)
  | shr (x y : RegIdx)
  | subn (x y : RegIdx)
  | shl (x y : RegIdx)
  | skipNeReg (x y : RegIdx) (z : Nibble)
  | loadI (nnn : BitVec 12)
  | jumpPlusV0 (nnn : BitVec 12)
  | rand (x : RegIdx) (nn : Byte)
  | draw (x y : RegIdx) (n : Nibble)
  | skipKeyPressed (x : RegIdx)
  | skipKeyNotPressed (x : RegIdx)
  | loadDelay (x : RegIdx)
  | waitKey (x : RegIdx)
  | storeDelay (x : RegIdx)
  | storeSound (x : RegIdx)
  | addI (x : RegIdx)
  | loadFontAddr (x : RegIdx)
  | storeBcd (x : RegIdx)
  | storeRegs (x : RegIdx)
  | loadRegs (x : RegIdx)
  | noop (op : Opcode)
  deriving DecidableEq, Repr

end Sys2Proof
end

