-- ==== Sys2Proof/Decode.lean ====
section
/-! DEFINITION. The fields of an opcode, the two-level decoder, the decoder of bytes, and the encoder
(30_encoding.md R80 to R92). The second-level values, the places of y, n and nnn and the byte order are PRESUMED by the spec (log 14). -/

namespace Sys2Proof

/-! ## Fields (30_encoding.md R81) -/

/-- The class c = op[15:12] (R84). -/
def classOf (op : Opcode) : Nibble := op.extractLsb' 12 4

/-- op[11:8] as a nibble: ignored in class 0 (R85). -/
def highNibbleOf (op : Opcode) : Nibble := op.extractLsb' 8 4

/-- The register selector x = op[11:8]. -/
def xOf (op : Opcode) : RegIdx := (op.extractLsb' 8 4).toFin

/-- The register selector y = op[7:4]. -/
def yOf (op : Opcode) : RegIdx := (op.extractLsb' 4 4).toFin

/-- The literal nibble n = op[3:0], also the submask of class 8 (R85). -/
def nOf (op : Opcode) : Nibble := op.extractLsb' 0 4

/-- The literal byte nn = op[7:0], also the submask of classes 0, E and F (R85). -/
def nnOf (op : Opcode) : Byte := op.extractLsb' 0 8

/-- The literal address nnn = op[11:0]. -/
def nnnOf (op : Opcode) : BitVec 12 := op.extractLsb' 0 12

/-! ## Second dispatch level (30_encoding.md R85, R90) -/

/-- Class 0x0, on the low byte. -/
def decodeClass0 (op : Opcode) : Instr :=
  match nnOf op with
  | 0xE0#8 => .clear (highNibbleOf op)
  | 0xEE#8 => .ret (highNibbleOf op)
  | _ => .noop op

/-- Class 0x8, on the low nibble. -/
def decodeClass8 (op : Opcode) : Instr :=
  match nOf op with
  | 0x0#4 => .move (xOf op) (yOf op)
  | 0x1#4 => .or (xOf op) (yOf op)
  | 0x2#4 => .and (xOf op) (yOf op)
  | 0x3#4 => .xor (xOf op) (yOf op)
  | 0x4#4 => .add (xOf op) (yOf op)
  | 0x5#4 => .sub (xOf op) (yOf op)
  | 0x6#4 => .shr (xOf op) (yOf op)
  | 0x7#4 => .subn (xOf op) (yOf op)
  | 0xE#4 => .shl (xOf op) (yOf op)
  | _ => .noop op

/-- Class 0xE, on the low byte. -/
def decodeClassE (op : Opcode) : Instr :=
  match nnOf op with
  | 0x9E#8 => .skipKeyPressed (xOf op)
  | 0xA1#8 => .skipKeyNotPressed (xOf op)
  | _ => .noop op

/-- Class 0xF, on the low byte. -/
def decodeClassF (op : Opcode) : Instr :=
  match nnOf op with
  | 0x07#8 => .loadDelay (xOf op)
  | 0x0A#8 => .waitKey (xOf op)
  | 0x15#8 => .storeDelay (xOf op)
  | 0x18#8 => .storeSound (xOf op)
  | 0x1E#8 => .addI (xOf op)
  | 0x29#8 => .loadFontAddr (xOf op)
  | 0x33#8 => .storeBcd (xOf op)
  | 0x55#8 => .storeRegs (xOf op)
  | 0x65#8 => .loadRegs (xOf op)
  | _ => .noop op

/-! ## First dispatch level (30_encoding.md R83, R84) -/

/-- The instruction an opcode stands for: total, pure, with no stop (R83). -/
def decode (op : Opcode) : Instr :=
  match classOf op with
  | 0x0#4 => decodeClass0 op
  | 0x1#4 => .jump (nnnOf op)
  | 0x2#4 => .call (nnnOf op)
  | 0x3#4 => .skipEq (xOf op) (nnOf op)
  | 0x4#4 => .skipNe (xOf op) (nnOf op)
  | 0x5#4 => .skipEqReg (xOf op) (yOf op) (nOf op)
  | 0x6#4 => .load (xOf op) (nnOf op)
  | 0x7#4 => .addImm (xOf op) (nnOf op)
  | 0x8#4 => decodeClass8 op
  | 0x9#4 => .skipNeReg (xOf op) (yOf op) (nOf op)
  | 0xA#4 => .loadI (nnnOf op)
  | 0xB#4 => .jumpPlusV0 (nnnOf op)
  | 0xC#4 => .rand (xOf op) (nnOf op)
  | 0xD#4 => .draw (xOf op) (yOf op) (nOf op)
  | 0xE#4 => decodeClassE op
  | _ => decodeClassF op

/-- The opcodes that match no operation, as 30_encoding.md R87 lists them. -/
def unmatched (op : Opcode) : Bool :=
  (classOf op == 0x0#4 && !([0xE0#8, 0xEE#8].contains (nnOf op))) ||
  (classOf op == 0x8#4 && [0x8#4, 0x9#4, 0xA#4, 0xB#4, 0xC#4, 0xD#4, 0xF#4].contains (nOf op)) ||
  (classOf op == 0xE#4 && !([0x9E#8, 0xA1#8].contains (nnOf op))) ||
  (classOf op == 0xF#4 &&
    !([0x07#8, 0x0A#8, 0x15#8, 0x18#8, 0x1E#8, 0x29#8, 0x33#8, 0x55#8, 0x65#8].contains (nnOf op)))

/-! ## Bytes (20_memory.md R68; 30_encoding.md R80) -/

/-- The opcode of two fetched bytes: the byte at the lower address is the high byte (20_memory.md R68). -/
def opcodeOfBytes (hi lo : Byte) : Opcode := hi ++ lo

/-- The byte of an opcode that stands at the lower address. -/
def highByteOf (op : Opcode) : Byte := op.extractLsb' 8 8

/-- The byte of an opcode that stands at the higher address. -/
def lowByteOf (op : Opcode) : Byte := op.extractLsb' 0 8

/-- The opcode as the hardware stores it, lowest address first. -/
def bytesOfOpcode (op : Opcode) : List Byte := [highByteOf op, lowByteOf op]

/-- Why bytes give no instruction. -/
inductive DecodeError where
  /-- Fewer than the two bytes every instruction has (30_encoding.md R80). Raised by `decodeBytes`. Safe. -/
  | truncated
  deriving DecidableEq, Repr

/-- Decode the instruction at the head of a list of bytes and give the rest: always two bytes are consumed (R80). -/
def decodeBytes : List Byte → Except DecodeError (Instr × List Byte)
  | hi :: lo :: rest => .ok (decode (opcodeOfBytes hi lo), rest)
  | [_] => .error .truncated
  | [] => .error .truncated

/-! ## The encoder (30_encoding.md R81, R90) -/

/-- A register number as a 4-bit field. -/
def regField (x : RegIdx) : Nibble := BitVec.ofFin x

/-- An opcode of four nibbles, the class first. -/
def fromNibbles (c a b d : Nibble) : Opcode := c ++ a ++ b ++ d

/-- An opcode of a class, a nibble and a byte. -/
def fromByte (c a : Nibble) (nn : Byte) : Opcode := c ++ a ++ nn

/-- An opcode of a class and a 12-bit address. -/
def fromAddr (c : Nibble) (nnn : BitVec 12) : Opcode := c ++ nnn

/-- The opcode of an instruction, from the encoding column of 30_encoding.md R90. -/
def encode : Instr → Opcode
  | .clear z => fromByte 0x0#4 z 0xE0#8
  | .ret z => fromByte 0x0#4 z 0xEE#8
  | .jump nnn => fromAddr 0x1#4 nnn
  | .call nnn => fromAddr 0x2#4 nnn
  | .skipEq x nn => fromByte 0x3#4 (regField x) nn
  | .skipNe x nn => fromByte 0x4#4 (regField x) nn
  | .skipEqReg x y z => fromNibbles 0x5#4 (regField x) (regField y) z
  | .load x nn => fromByte 0x6#4 (regField x) nn
  | .addImm x nn => fromByte 0x7#4 (regField x) nn
  | .move x y => fromNibbles 0x8#4 (regField x) (regField y) 0x0#4
  | .or x y => fromNibbles 0x8#4 (regField x) (regField y) 0x1#4
  | .and x y => fromNibbles 0x8#4 (regField x) (regField y) 0x2#4
  | .xor x y => fromNibbles 0x8#4 (regField x) (regField y) 0x3#4
  | .add x y => fromNibbles 0x8#4 (regField x) (regField y) 0x4#4
  | .sub x y => fromNibbles 0x8#4 (regField x) (regField y) 0x5#4
  | .shr x y => fromNibbles 0x8#4 (regField x) (regField y) 0x6#4
  | .subn x y => fromNibbles 0x8#4 (regField x) (regField y) 0x7#4
  | .shl x y => fromNibbles 0x8#4 (regField x) (regField y) 0xE#4
  | .skipNeReg x y z => fromNibbles 0x9#4 (regField x) (regField y) z
  | .loadI nnn => fromAddr 0xA#4 nnn
  | .jumpPlusV0 nnn => fromAddr 0xB#4 nnn
  | .rand x nn => fromByte 0xC#4 (regField x) nn
  | .draw x y n => fromNibbles 0xD#4 (regField x) (regField y) n
  | .skipKeyPressed x => fromByte 0xE#4 (regField x) 0x9E#8
  | .skipKeyNotPressed x => fromByte 0xE#4 (regField x) 0xA1#8
  | .loadDelay x => fromByte 0xF#4 (regField x) 0x07#8
  | .waitKey x => fromByte 0xF#4 (regField x) 0x0A#8
  | .storeDelay x => fromByte 0xF#4 (regField x) 0x15#8
  | .storeSound x => fromByte 0xF#4 (regField x) 0x18#8
  | .addI x => fromByte 0xF#4 (regField x) 0x1E#8
  | .loadFontAddr x => fromByte 0xF#4 (regField x) 0x29#8
  | .storeBcd x => fromByte 0xF#4 (regField x) 0x33#8
  | .storeRegs x => fromByte 0xF#4 (regField x) 0x55#8
  | .loadRegs x => fromByte 0xF#4 (regField x) 0x65#8
  | .noop op => op

/-! ## The mask and match columns of the opcode map (30_encoding.md R90) -/

/-- The mask of an instruction's row; the no-op's row masks nothing (R87, R90). -/
def rowMask : Instr → Opcode
  | .clear _ => 0xF0FF#16
  | .ret _ => 0xF0FF#16
  | .jump _ => 0xF000#16
  | .call _ => 0xF000#16
  | .skipEq _ _ => 0xF000#16
  | .skipNe _ _ => 0xF000#16
  | .skipEqReg _ _ _ => 0xF000#16
  | .load _ _ => 0xF000#16
  | .addImm _ _ => 0xF000#16
  | .move _ _ => 0xF00F#16
  | .or _ _ => 0xF00F#16
  | .and _ _ => 0xF00F#16
  | .xor _ _ => 0xF00F#16
  | .add _ _ => 0xF00F#16
  | .sub _ _ => 0xF00F#16
  | .shr _ _ => 0xF00F#16
  | .subn _ _ => 0xF00F#16
  | .shl _ _ => 0xF00F#16
  | .skipNeReg _ _ _ => 0xF000#16
  | .loadI _ => 0xF000#16
  | .jumpPlusV0 _ => 0xF000#16
  | .rand _ _ => 0xF000#16
  | .draw _ _ _ => 0xF000#16
  | .skipKeyPressed _ => 0xF0FF#16
  | .skipKeyNotPressed _ => 0xF0FF#16
  | .loadDelay _ => 0xF0FF#16
  | .waitKey _ => 0xF0FF#16
  | .storeDelay _ => 0xF0FF#16
  | .storeSound _ => 0xF0FF#16
  | .addI _ => 0xF0FF#16
  | .loadFontAddr _ => 0xF0FF#16
  | .storeBcd _ => 0xF0FF#16
  | .storeRegs _ => 0xF0FF#16
  | .loadRegs _ => 0xF0FF#16
  | .noop _ => 0x0000#16

/-- The match of an instruction's row (R90). -/
def rowMatch : Instr → Opcode
  | .clear _ => 0x00E0#16
  | .ret _ => 0x00EE#16
  | .jump _ => 0x1000#16
  | .call _ => 0x2000#16
  | .skipEq _ _ => 0x3000#16
  | .skipNe _ _ => 0x4000#16
  | .skipEqReg _ _ _ => 0x5000#16
  | .load _ _ => 0x6000#16
  | .addImm _ _ => 0x7000#16
  | .move _ _ => 0x8000#16
  | .or _ _ => 0x8001#16
  | .and _ _ => 0x8002#16
  | .xor _ _ => 0x8003#16
  | .add _ _ => 0x8004#16
  | .sub _ _ => 0x8005#16
  | .shr _ _ => 0x8006#16
  | .subn _ _ => 0x8007#16
  | .shl _ _ => 0x800E#16
  | .skipNeReg _ _ _ => 0x9000#16
  | .loadI _ => 0xA000#16
  | .jumpPlusV0 _ => 0xB000#16
  | .rand _ _ => 0xC000#16
  | .draw _ _ _ => 0xD000#16
  | .skipKeyPressed _ => 0xE09E#16
  | .skipKeyNotPressed _ => 0xE0A1#16
  | .loadDelay _ => 0xF007#16
  | .waitKey _ => 0xF00A#16
  | .storeDelay _ => 0xF015#16
  | .storeSound _ => 0xF018#16
  | .addI _ => 0xF01E#16
  | .loadFontAddr _ => 0xF029#16
  | .storeBcd _ => 0xF033#16
  | .storeRegs _ => 0xF055#16
  | .loadRegs _ => 0xF065#16
  | .noop _ => 0x0000#16

/-! ## The opcode table's numbering -/

/-- The opcode of a table row's word: every instruction is one 16-bit word, bit 0 its least significant bit; bits at or
above `nbits` are 0 (log 17). -/
def tableOpcode (nbits w : Nat) : Opcode := BitVec.ofNat 16 (w % 2 ^ nbits)

/-- The instruction the decoder reads from a table word, laid out in bytes as the hardware stores it. -/
def decodeTableWord (nbits w : Nat) : Option Instr :=
  match decodeBytes (bytesOfOpcode (tableOpcode nbits w)) with
  | .ok (i, _) => some i
  | .error _ => none

end Sys2Proof
end

