-- ==== Sys2Proof/Config.lean ====
section
/-! DEFINITION. The fixed parameters of the hardware (00_scope.md R5 to R11) and the values the spec leaves OPEN or free
(00_scope.md R14), the latter as constants with no body: nothing can be proved of their values. -/

namespace Sys2Proof.Config

/-! ## Fixed parameters -/

/-- MEM_SIZE: addresses 0x000 to 0xFFE exist (00_scope.md R6; 90_conflicts.md C1). -/
abbrev memSize : Nat := 0xFFF

/-- STACK_DEPTH (00_scope.md R7). -/
abbrev stackDepth : Nat := 15

/-- WIDTH of the display in pixels (00_scope.md R8). -/
abbrev width : Nat := 64

/-- HEIGHT of the display in pixels (00_scope.md R8). -/
abbrev height : Nat := 32

/-- FONT_BASE (00_scope.md R9). -/
abbrev fontBase : Nat := 0x050

/-- FONT_GLYPH_BYTES (00_scope.md R9). -/
abbrev fontGlyphBytes : Nat := 5

/-- FONT_LEN (00_scope.md R9). -/
abbrev fontLen : Nat := 80

/-- PROG_BASE: where the program image is loaded, and PC after reset (00_scope.md R10). -/
abbrev progBase : Nat := 0x200

/-- The longest program image that is not refused at load (70_reset_and_hazards.md R191). -/
abbrev maxProgramLen : Nat := 0xDFF

/-- NKEYS (00_scope.md R11). -/
abbrev numKeys : Nat := 16

/-! ## OPEN reset values -/

/-- RESET_V (00_scope.md R14, 10_state.md R49). DESIGN CHOICE, log 1. -/
opaque resetV : RegIdx → Byte

/-- RESET_I (00_scope.md R14, 10_state.md R49). DESIGN CHOICE, log 1. -/
opaque resetI : Addr

/-- RESET_DT (00_scope.md R14, 10_state.md R49). DESIGN CHOICE, log 1. -/
opaque resetDT : Byte

/-- RESET_ST (00_scope.md R14, 10_state.md R49). DESIGN CHOICE, log 1. -/
opaque resetST : Byte

/-- The unspecified stale contents of the stack's slots after reset (10_state.md R47). DESIGN CHOICE, log 10. -/
opaque resetSlot : Fin 15 → Addr

/-- INIT_MEM (00_scope.md R14, 10_state.md R50). DESIGN CHOICE, log 2. -/
opaque initMem : Nat → Byte

/-- FONT, byte k for k below 80 (00_scope.md R14, 70_reset_and_hazards.md R192). DESIGN CHOICE, log 3. -/
opaque font : Nat → Byte

/-! ## Free answers: the argument is the index of the query (State.oracleIx) -/

/-- The answer of RandByte() (60_exceptions.md R183). DESIGN CHOICE, log 7. -/
opaque randByte : Nat → Byte

/-- The answer of KeyDown(k) (60_exceptions.md R181). DESIGN CHOICE, log 8. -/
opaque keyDown : Nat → Key → Bool

/-- The answer of PressedKey(): no key, or a key (60_exceptions.md R181). DESIGN CHOICE, log 8. -/
opaque pressedKey : Nat → Option Key

/-- How many Ticks occur before a step (60_exceptions.md R178). DESIGN CHOICE, log 6. -/
opaque ticksBefore : Nat → Nat

end Sys2Proof.Config
end

