-- ==== Sys2Proof/Machine/State.lean ====
section
/-! DEFINITION. The state of the core as plain data, the reasons a step can stop, and the state after reset
(10_state.md R30 to R51). -/

namespace Sys2Proof.Machine

/-! ## Stops (60_exceptions.md R170, R171) -/

/-- A stop condition together with its `info` (60_exceptions.md R170 and the table of R171). -/
inductive StopCause where
  /-- A push with 15 entries on the stack; `info` is the return address that could not be pushed. -/
  | stackOverflow (returnAddr : Addr)
  /-- A pop of the empty stack; there is no `info`. -/
  | stackUnderflow
  /-- An access at or beyond MEM_SIZE; `info` is the lowest out-of-range address, an unwrapped sum (20_memory.md R65). -/
  | memoryOutOfRange (address : Nat)
  /-- A key query with a value of 16 or more; `info` is that value. -/
  | keyOutOfRange (key : Byte)
  deriving DecidableEq, Repr

/-- The stop record; its code and name are computed from the cause (60_exceptions.md R171). -/
structure StopRecord where
  cause : StopCause
  /-- The address of the instruction whose step raised the stop. -/
  fetchPc : Addr
  /-- The fetched opcode, or none for a fetch stop. -/
  opcode : Option Opcode
  deriving DecidableEq, Repr

/-- The reasons a step of the core gives no next state. -/
inductive Fault where
  /-- Raised by `step` alone, when STOP holds a record: the core has no further step (10_state.md R42,
  60_exceptions.md R172, R173). Safe: the spec gives a stopped core no step at all. -/
  | stopped (record : StopRecord)
  deriving DecidableEq, Repr

/-- The reasons the model refuses. -/
inductive Refusal where
  /-- Raised by `exec`'s arm of an instruction with no meaning yet; no arm raises it now. Safe. -/
  | notModelled (mnemonic : String)
  deriving DecidableEq, Repr

/-! ## The parts of the state -/

/-- The call stack in the source's representation: 15 slots, a pointer and an explicit empty flag (10_state.md R37). -/
structure CallStack where
  /-- SLOT[0..14] -/
  slots : Vector Addr 15
  /-- SP, a slot index -/
  sp : Fin 15
  /-- EMPTY -/
  empty : Bool
  deriving DecidableEq, Repr

/-- FB[cy][cx]: 32 rows of 64 one-bit pixels (10_state.md R40). -/
abbrev Framebuffer := Vector (Vector Bool 64) 32

/-- The bytes written since reset, by strictly rising address; an address that is not listed holds its reset byte
(10_state.md R50; log 2). -/
abbrev Memory := List Host.Cell

/-- The state of the core, `(V, I, PC, DT, ST, STK, FB, MEM, STOP)` (10_state.md), the block's output log, and the model's
own index of free answers. -/
structure State where
  /-- V[0] to V[15] (10_state.md R30); V[15] is VF (R31) -/
  v : Vector Byte 16
  /-- I (R32) -/
  i : Addr
  /-- PC (R33) -/
  pc : Addr
  /-- DT (R34) -/
  dt : Byte
  /-- ST (R35) -/
  st : Byte
  /-- STK (R36, R37) -/
  stk : CallStack
  /-- FB (R40) -/
  fb : Framebuffer
  /-- MEM (R41) -/
  mem : Memory
  /-- STOP (R42) -/
  stop : Option StopRecord
  /-- the present-event log, oldest first: an output, never read by the core (R45; 60_exceptions.md R184; log 11) -/
  presents : List Framebuffer
  /-- the model's own: the index of the next free answer (log 7) -/
  oracleIx : Nat
  deriving DecidableEq, Repr

/-- Every pixel off (10_state.md R48). -/
def blankFramebuffer : Framebuffer := Vector.replicate 32 (Vector.replicate 64 false)

/-- STK = [], EMPTY = true, SP = 0, the slots' contents unspecified (10_state.md R47; log 10). -/
def CallStack.reset : CallStack :=
  { slots := Vector.ofFn Config.resetSlot, sp := 0, empty := true }

/-- The machine right after reset (10_state.md R46 to R51, 70_reset_and_hazards.md R190), with no program loaded (log 12). -/
def State.reset : State :=
  { v := Vector.ofFn Config.resetV
    i := Config.resetI
    pc := BitVec.ofNat 16 Config.progBase
    dt := Config.resetDT
    st := Config.resetST
    stk := CallStack.reset
    fb := blankFramebuffer
    mem := []
    stop := none
    presents := [blankFramebuffer]
    oracleIx := 0 }

end Sys2Proof.Machine
end

