-- ==== Sys2Proof/Machine/Ops.lean ====
section
/-! DEFINITION. The named operations over registers, the stack, memory, the timers, the free answers and the output log;
raising a stop; fetching an opcode; loading the font and a program. -/

namespace Sys2Proof.Machine

/-! ## Updates of one part of the state -/

/-- `V[x]` (00_scope.md R17). -/
def State.reg (s : State) (x : RegIdx) : Byte := s.v[x.val]

/-- `V[x] <- b`: no register is hardwired (10_state.md R30). -/
def State.setV (s : State) (x : RegIdx) (b : Byte) : State := { s with v := s.v.set x.val b }

/-- Write the whole register file. -/
def State.setRegs (s : State) (v : Vector Byte 16) : State := { s with v := v }

/-- `I <- a` -/
def State.setI (s : State) (a : Addr) : State := { s with i := a }

/-- `PC <- a` -/
def State.setPc (s : State) (a : Addr) : State := { s with pc := a }

/-- `DT <- b` -/
def State.setDT (s : State) (b : Byte) : State := { s with dt := b }

/-- `ST <- b` -/
def State.setST (s : State) (b : Byte) : State := { s with st := b }

/-- `STK <- k` -/
def State.setStk (s : State) (k : CallStack) : State := { s with stk := k }

/-- `FB <- f` -/
def State.setFB (s : State) (f : Framebuffer) : State := { s with fb := f }

/-- `MEM <- m` -/
def State.setMem (s : State) (m : Memory) : State := { s with mem := m }

/-- `Present()`: append a copy of FB to the output log (43_display.md R143, 60_exceptions.md R184). -/
def State.present (s : State) : State := { s with presents := s.presents ++ [s.fb] }

/-- Move to the next free answer (log 7). -/
def State.nextAnswer (s : State) : State := { s with oracleIx := s.oracleIx + 1 }

/-- `PC <- (PC + 2) mod 2^16` when the condition holds (00_scope.md, glossary "Skip"; 40_control_flow.md R103). -/
def State.skipIf (s : State) (c : Bool) : State := if c then s.setPc (s.pc + 2) else s

/-- The sound output SOUND_ON = (ST ≠ 0) (60_exceptions.md R179; PRESUMED by the spec, log 13). -/
def State.soundOn (s : State) : Bool := s.st != 0

/-! ## Stops (60_exceptions.md R170 to R174) -/

/-- The stop's code (R170). -/
def StopCause.code : StopCause → Nat
  | .stackOverflow _ => 1
  | .stackUnderflow => 2
  | .memoryOutOfRange _ => 3
  | .keyOutOfRange _ => 4

/-- The stop's name (R170). -/
def StopCause.name : StopCause → String
  | .stackOverflow _ => "StackOverflow"
  | .stackUnderflow => "StackUnderflow"
  | .memoryOutOfRange _ => "MemoryOutOfRange"
  | .keyOutOfRange _ => "KeyOutOfRange"

/-- The stop's info, none for StackUnderflow (R171). -/
def StopCause.info : StopCause → Option Nat
  | .stackOverflow returnAddr => some returnAddr.toNat
  | .stackUnderflow => none
  | .memoryOutOfRange address => some address
  | .keyOutOfRange key => some key.toNat

/-- Latch a stop record: the one change that taking a stop makes (R172). There is no handler, vector or saved state, and no
return from a stop (R172, R173). -/
def State.latch (s : State) (r : StopRecord) : State := { s with stop := some r }

/-- `raise` in the execution of instruction `i`: PC stays at a + 2, so the instruction's own address a is PC - 2 (R171, R172;
log 5). -/
def State.raise (s : State) (cause : StopCause) (i : Instr) : State :=
  s.latch { cause := cause, fetchPc := s.pc - 2, opcode := some (encode i) }

/-- `raise` in the fetch: PC is unchanged and there is no opcode (30_encoding.md R88, 60_exceptions.md R171). -/
def State.raiseFetch (s : State) (address : Nat) : State :=
  s.latch { cause := .memoryOutOfRange address, fetchPc := s.pc, opcode := none }

/-! ## The call stack (10_state.md R36 to R39) -/

/-- len(STK) (R37). -/
def CallStack.len (k : CallStack) : Nat := if k.empty then 0 else k.sp.val + 1

/-- The abstract sequence: `[]` when EMPTY, else `[SLOT[0], ..., SLOT[SP]]` (R37). -/
def CallStack.toList (k : CallStack) : List Addr := k.slots.toList.take k.len

/-- Push(v); none is StackOverflow, and nothing of the stack changes (R38). -/
def CallStack.push (k : CallStack) (a : Addr) : Option CallStack :=
  if k.len = Config.stackDepth then none
  else
    let sp := if k.empty then 0 else k.sp + 1
    some { slots := k.slots.set sp.val a, sp := sp, empty := false }

/-- Pop(), the value and the stack after it; none is StackUnderflow (R39). -/
def CallStack.pop (k : CallStack) : Option (Addr × CallStack) :=
  if k.empty then none
  else if k.sp = 0 then some (k.slots[k.sp.val], { k with empty := true })
  else some (k.slots[k.sp.val], { k with sp := k.sp - 1 })

/-! ## Memory (20_memory.md R60 to R73; 10_state.md R50) -/

/-- The byte an address holds before anything is written to it: FONT at 0x050 to 0x09F, INIT_MEM elsewhere (10_state.md R50;
logs 2 and 3). -/
def resetByte (a : Nat) : Byte :=
  if Config.fontBase ≤ a ∧ a < Config.fontBase + Config.fontLen then Config.font (a - Config.fontBase)
  else Config.initMem a

/-- The written byte listed for an address, none where nothing was written. -/
def Memory.lookup : Memory → Nat → Option Byte
  | [], _ => none
  | (b, v) :: m, a => if a = b then some v else Memory.lookup m a

/-- List a byte for an address, keeping the addresses rising. -/
def Memory.insert : Memory → Nat → Byte → Memory
  | [], a, v => [(a, v)]
  | (b, w) :: m, a, v =>
    if a < b then (a, v) :: (b, w) :: m
    else if a = b then (a, v) :: m
    else (b, w) :: Memory.insert m a v

/-- The listed addresses are strictly rising from `lo` and exist. -/
def Memory.wfFrom : Nat → Memory → Bool
  | _, [] => true
  | lo, (a, _) :: m => decide (lo ≤ a ∧ a < Config.memSize) && Memory.wfFrom (a + 1) m

/-- The canonical form: addresses strictly rising, all below MEM_SIZE (log 2). -/
def Memory.wf (m : Memory) : Bool := Memory.wfFrom 0 m

/-- MemRead at an address that exists: the byte written last, or the reset byte (20_memory.md R63, R73). The stop of R63 is
`State.withRange`'s and `State.fetch`'s; log 18. -/
def Memory.byteAt (m : Memory) (a : Nat) : Byte := (Memory.lookup m a).getD (resetByte a)

/-- MemWrite at an address that exists: `MEM[a] <- v` (20_memory.md R64). The stop of R64 is `State.withRange`'s; an address that
does not exist is left alone (log 18). -/
def Memory.write (m : Memory) (a : Nat) (v : Byte) : Memory :=
  if a < Config.memSize then Memory.insert m a v else m

/-- Write bytes at rising addresses from `a`, in that order. -/
def Memory.writeBytes : Memory → Nat → List Byte → Memory
  | m, _, [] => m
  | m, a, v :: vs => Memory.writeBytes (Memory.write m a v) (a + 1) vs

/-- The lowest address at or beyond MEM_SIZE among `base`, ..., `base + len - 1`, if there is one (20_memory.md R66). -/
def firstOutOfRange (base len : Nat) : Option Nat :=
  if 0 < len ∧ Config.memSize ≤ base + len - 1 then some (max base Config.memSize) else none

/-- Run `f` after the check of every address an instruction accesses; an address out of range stops instruction `i` with
nothing changed (20_memory.md R66). -/
def State.withRange (s : State) (base len : Nat) (i : Instr) (f : State → State) : State :=
  match firstOutOfRange base len with
  | some bad => s.raise (.memoryOutOfRange bad) i
  | none => f s

/-! ## Fetch (30_encoding.md R88) -/

/-- The opcode at PC, or the address of a fetch stop, PC before PC + 1. -/
def State.fetch (s : State) : Except Nat Opcode :=
  match firstOutOfRange s.pc.toNat 2 with
  | some bad => .error bad
  | none => .ok (opcodeOfBytes (Memory.byteAt s.mem s.pc.toNat) (Memory.byteAt s.mem (s.pc.toNat + 1)))

/-- `PC <- (a + 2) mod 2^16`, before the instruction executes (10_state.md R33). -/
def State.advancePc (s : State) : State := s.setPc (s.pc + 2)

/-! ## Ticks (60_exceptions.md R177, R178) -/

/-- One timer under a Tick: decremented while it is not zero (R177; log 13). -/
def tickTimer (d : Byte) : Byte := if d = 0 then 0 else d - 1

/-- One timer under `n` Ticks. -/
def tickTimes : Nat → Byte → Byte
  | 0, d => d
  | n + 1, d => tickTimes n (tickTimer d)

/-- Tick, the ticker's one action (R177). -/
def State.tick (s : State) : State := { s with dt := tickTimer s.dt, st := tickTimer s.st }

/-- `n` Ticks. -/
def State.ticks (s : State) (n : Nat) : State := { s with dt := tickTimes n s.dt, st := tickTimes n s.st }

/-- The Ticks that occur before this step, as many as the free schedule says (R178; log 6). -/
def State.elapse (s : State) : State := (s.ticks (Config.ticksBefore s.oracleIx)).nextAnswer

/-! ## The loader (70_reset_and_hazards.md R190, R191; log 12) -/

/-- Place the 80 font bytes at 0x050 to 0x09F (R190). -/
def State.loadFont (s : State) (font : Vector Byte 80) : State :=
  s.setMem (Memory.writeBytes s.mem Config.fontBase font.toList)

/-- The font 92_eei_decisions.md D9 recommends, glyphs 0 to F: a value a claim may name for the OPEN parameter FONT, used by no rule
of the model (70_reset_and_hazards.md R192; PRESUMED by the spec, GK4; log 3). -/
def recommendedFont : List Byte :=
  ([0xF0#8, 0x90#8, 0x90#8, 0x90#8, 0xF0#8] ++
   [0x20#8, 0x60#8, 0x20#8, 0x20#8, 0x70#8] ++
   [0xF0#8, 0x10#8, 0xF0#8, 0x80#8, 0xF0#8] ++
   [0xF0#8, 0x10#8, 0xF0#8, 0x10#8, 0xF0#8] ++
   [0x90#8, 0x90#8, 0xF0#8, 0x10#8, 0x10#8] ++
   [0xF0#8, 0x80#8, 0xF0#8, 0x10#8, 0xF0#8] ++
   [0xF0#8, 0x80#8, 0xF0#8, 0x90#8, 0xF0#8] ++
   [0xF0#8, 0x10#8, 0x20#8, 0x40#8, 0x40#8] ++
   [0xF0#8, 0x90#8, 0xF0#8, 0x90#8, 0xF0#8] ++
   [0xF0#8, 0x90#8, 0xF0#8, 0x10#8, 0xF0#8] ++
   [0xF0#8, 0x90#8, 0xF0#8, 0x90#8, 0x90#8] ++
   [0xE0#8, 0x90#8, 0xE0#8, 0x90#8, 0xE0#8] ++
   [0xF0#8, 0x80#8, 0x80#8, 0x80#8, 0xF0#8] ++
   [0xE0#8, 0x90#8, 0x90#8, 0x90#8, 0xE0#8] ++
   [0xF0#8, 0x80#8, 0xF0#8, 0x80#8, 0xF0#8] ++
   [0xF0#8, 0x80#8, 0xF0#8, 0x80#8, 0x80#8])

/-- Place the program image at 0x200; none refuses an image longer than 0xDFF bytes (R191). -/
def State.loadProgram (s : State) (program : List Byte) : Option State :=
  if program.length ≤ Config.maxProgramLen then some (s.setMem (Memory.writeBytes s.mem Config.progBase program))
  else none

/-- Store an opcode where the next step fetches, with the machine able to take that step: not stopped, and PC at two
bytes that exist (log 17). -/
def State.placeOpcode (s : State) (op : Opcode) : State :=
  let pc : Addr := if s.pc.toNat + 1 < Config.memSize then s.pc else BitVec.ofNat 16 Config.progBase
  { s with pc := pc, stop := none, mem := Memory.writeBytes s.mem pc.toNat (bytesOfOpcode op) }

end Sys2Proof.Machine
end

