-- ==== Sys2Proof/Machine/Flags.lean ====
section
/-! DEFINITION. VF and its flags: carry, not-borrow, the bit shifted out (10_state.md R31, 41_alu.md R110 to R123). -/

namespace Sys2Proof.Machine

/-- VF is V[0xF] (10_state.md R31). -/
def vf : RegIdx := 0xF

/-- A flag as the value VF takes. -/
def flagByte (c : Bool) : Byte := if c then 1 else 0

/-- Carry of an 8-bit addition: the exact sum is 256 or more (41_alu.md R117). -/
def carryOf (a b : Byte) : Bool := 256 ≤ a.toNat + b.toNat

/-- Not-borrow of `a - b` (41_alu.md R118, R120). -/
def notBorrowOf (a b : Byte) : Bool := b.toNat ≤ a.toNat

/-- The bit a right shift by one drops: bit 0 (41_alu.md R119). -/
def shiftedOutRight (a : Byte) : Bool := a.getLsbD 0

/-- The bit a left shift by one drops: bit 7 (41_alu.md R121). -/
def shiftedOutLeft (a : Byte) : Bool := a.getLsbD 7

/-- Write the result to V[x], then the flag to VF, so that VF ends as the flag when x is 0xF (41_alu.md R110). -/
def State.setResultAndFlag (s : State) (x : RegIdx) (result : Byte) (flag : Bool) : State :=
  (s.setV x result).setV vf (flagByte flag)

end Sys2Proof.Machine
end

