-- ==== Sys2Proof/Machine/Operands.lean ====
section
/-! DEFINITION. How operands are formed: immediates, addresses, key numbers, decimal digits, register groups, sprite bytes. -/

namespace Sys2Proof.Machine

/-- `zext_16` of a 12-bit address (30_encoding.md R82). -/
def zextAddr (nnn : BitVec 12) : Addr := nnn.setWidth 16

/-- `zext_16` of a byte (00_scope.md R16). -/
def zextByte (b : Byte) : Addr := b.setWidth 16

/-- The logical key a register value names, none for 16 to 255 (60_exceptions.md R182). -/
def keyOperand (b : Byte) : Option Key :=
  if h : b.toNat < Config.numKeys then some ⟨b.toNat, h⟩ else none

/-- A key reported by PressedKey() as a register value (44_timers_input.md R153). -/
def keyValue (k : Key) : Byte := BitVec.ofNat 8 k.val

/-- The address of a font glyph, `FONT_BASE + 5 × V`: the whole byte is used (42_index_memory.md R132). -/
def fontAddr (b : Byte) : Addr := BitVec.ofNat 16 (Config.fontBase + Config.fontGlyphBytes * b.toNat)

/-- The three decimal digits of a byte, hundreds first (42_index_memory.md R133). -/
def bcdDigits (b : Byte) : List Byte :=
  [BitVec.ofNat 8 (b.toNat / 100), BitVec.ofNat 8 (b.toNat / 10 % 10), BitVec.ofNat 8 (b.toNat % 10)]

/-- V[0], ..., V[x], the bytes store-regs writes (42_index_memory.md R134). -/
def State.regsUpTo (s : State) (x : RegIdx) : List Byte := s.v.toList.take (x.val + 1)

/-- The register file after load-regs: V[0] to V[x] from memory at I, the others kept (42_index_memory.md R135). -/
def State.regsLoaded (s : State) (x : RegIdx) : Vector Byte 16 :=
  Vector.ofFn fun r : Fin 16 => if r ≤ x then Memory.byteAt s.mem (s.i.toNat + r.val) else s.reg r

/-- The `n` sprite bytes MEM[I], ..., MEM[I+n-1] (43_display.md R142). -/
def State.spriteBytes (s : State) (n : Nibble) : List Byte :=
  (List.range n.toNat).map fun r => Memory.byteAt s.mem (s.i.toNat + r)

end Sys2Proof.Machine
end

