-- ==== Sys2Proof/Machine/Alu.lean ====
section
/-! DEFINITION. The meanings of register loads, the ALU, the shifts and rand (41_alu.md R110 to R123). Operands are read
before any write, the result is written before the flag (R110). -/

namespace Sys2Proof.Machine

/-- load x,nn (R111). -/
def execLoad (x : RegIdx) (nn : Byte) (s : State) : Host.Outcome State Fault Refusal :=
  .next (s.setV x nn)

/-- add-imm x,nn (R112): wraps, no flag. -/
def execAddImm (x : RegIdx) (nn : Byte) (s : State) : Host.Outcome State Fault Refusal :=
  .next (s.setV x (s.reg x + nn))

/-- move x,y (R113). -/
def execMove (x y : RegIdx) (s : State) : Host.Outcome State Fault Refusal :=
  .next (s.setV x (s.reg y))

/-- or x,y (R114): VF is not reset. -/
def execOr (x y : RegIdx) (s : State) : Host.Outcome State Fault Refusal :=
  .next (s.setV x (s.reg x ||| s.reg y))

/-- and x,y (R115). -/
def execAnd (x y : RegIdx) (s : State) : Host.Outcome State Fault Refusal :=
  .next (s.setV x (s.reg x &&& s.reg y))

/-- xor x,y (R116). -/
def execXor (x y : RegIdx) (s : State) : Host.Outcome State Fault Refusal :=
  .next (s.setV x (s.reg x ^^^ s.reg y))

/-- add x,y (R117): VF is the carry. -/
def execAdd (x y : RegIdx) (s : State) : Host.Outcome State Fault Refusal :=
  .next (s.setResultAndFlag x (s.reg x + s.reg y) (carryOf (s.reg x) (s.reg y)))

/-- sub x,y (R118): VF is not-borrow. -/
def execSub (x y : RegIdx) (s : State) : Host.Outcome State Fault Refusal :=
  .next (s.setResultAndFlag x (s.reg x - s.reg y) (notBorrowOf (s.reg x) (s.reg y)))

/-- shr x (R119): VF is the old bit 0; y is not read. -/
def execShr (x : RegIdx) (s : State) : Host.Outcome State Fault Refusal :=
  .next (s.setResultAndFlag x (s.reg x >>> 1) (shiftedOutRight (s.reg x)))

/-- subn x,y (R120): Vy - Vx, VF is its not-borrow. -/
def execSubn (x y : RegIdx) (s : State) : Host.Outcome State Fault Refusal :=
  .next (s.setResultAndFlag x (s.reg y - s.reg x) (notBorrowOf (s.reg y) (s.reg x)))

/-- shl x (R121; 90_conflicts.md C5): VF is the old bit 7; y is not read. -/
def execShl (x : RegIdx) (s : State) : Host.Outcome State Fault Refusal :=
  .next (s.setResultAndFlag x (s.reg x <<< 1) (shiftedOutLeft (s.reg x)))

/-- rand x,nn (R122): nn OR a free byte (60_exceptions.md R183; log 7). -/
def execRand (x : RegIdx) (nn : Byte) (s : State) : Host.Outcome State Fault Refusal :=
  .next ((s.setV x (nn ||| Config.randByte s.oracleIx)).nextAnswer)

end Sys2Proof.Machine
end

