-- ==== Sys2Proof/Machine/ControlFlow.lean ====
section
/-! DEFINITION. The meanings of control transfer (40_control_flow.md R100 to R108) and of the no-op (30_encoding.md R87).
Each meaning runs after the fetch, with PC at the instruction's address plus 2 (30_encoding.md R88). -/

namespace Sys2Proof.Machine

/-- return (R100). -/
def execRet (z : Nibble) (s : State) : Host.Outcome State Fault Refusal :=
  match s.stk.pop with
  | some (t, k) => .next ((s.setStk k).setPc t)
  | none => .next (s.raise .stackUnderflow (.ret z))

/-- jump nnn (R101). -/
def execJump (nnn : BitVec 12) (s : State) : Host.Outcome State Fault Refusal :=
  .next (s.setPc (zextAddr nnn))

/-- call nnn (R102): the return address is PC, already a + 2. -/
def execCall (nnn : BitVec 12) (s : State) : Host.Outcome State Fault Refusal :=
  match s.stk.push s.pc with
  | some k => .next ((s.setStk k).setPc (zextAddr nnn))
  | none => .next (s.raise (.stackOverflow s.pc) (.call nnn))

/-- skip-eq x,nn (R103). -/
def execSkipEq (x : RegIdx) (nn : Byte) (s : State) : Host.Outcome State Fault Refusal :=
  .next (s.skipIf (s.reg x == nn))

/-- skip-ne x,nn (R104). -/
def execSkipNe (x : RegIdx) (nn : Byte) (s : State) : Host.Outcome State Fault Refusal :=
  .next (s.skipIf (s.reg x != nn))

/-- skip-eq-reg x,y (R105). -/
def execSkipEqReg (x y : RegIdx) (s : State) : Host.Outcome State Fault Refusal :=
  .next (s.skipIf (s.reg x == s.reg y))

/-- skip-ne-reg x,y (R106). -/
def execSkipNeReg (x y : RegIdx) (s : State) : Host.Outcome State Fault Refusal :=
  .next (s.skipIf (s.reg x != s.reg y))

/-- jump-plus-v0 nnn (R107): the base is always V0, and no flag is written. -/
def execJumpPlusV0 (nnn : BitVec 12) (s : State) : Host.Outcome State Fault Refusal :=
  .next (s.setPc (zextAddr nnn + zextByte (s.reg 0)))

/-- The no-op of an unmatched opcode: nothing beyond the fetch's PC advance (30_encoding.md R87). -/
def execNoop (s : State) : Host.Outcome State Fault Refusal :=
  .next s

end Sys2Proof.Machine
end

