-- ==== Sys2Proof/Machine/Display.lean ====
section
/-! DEFINITION. The pixel composition, the clip-and-wrap sprite engine, and the meanings of clear and draw
(43_display.md R140 to R144). -/

namespace Sys2Proof.Machine

/-- FB[cy][cx] (10_state.md R40). -/
def pixel (fb : Framebuffer) (cx : Fin 64) (cy : Fin 32) : Bool := fb[cy.val][cx.val]

/-- FB[cy][cx] <- b. -/
def setPixel (fb : Framebuffer) (cx : Fin 64) (cy : Fin 32) (b : Bool) : Framebuffer :=
  fb.set cy.val (fb[cy.val].set cx.val b)

/-- `Compose(bit, cx, cy)`: the framebuffer after it, and whether it collided by the literal rule, the old pixel equal to
the bit (R140). -/
def compose (bit : Bool) (cx : Fin 64) (cy : Fin 32) (fb : Framebuffer) : Framebuffer × Bool :=
  (setPixel fb cx cy (pixel fb cx cy ^^ bit), pixel fb cx cy == bit)

/-- One cursor position of draw: composed when it is on the display, clipped otherwise; the second component gathers
collisions (R142). -/
def drawPixel (bit : Bool) (cx cy : Nat) (acc : Framebuffer × Bool) : Framebuffer × Bool :=
  if h : cx < 64 ∧ cy < 32 then
    let r := compose bit ⟨cx, h.1⟩ ⟨cy, h.2⟩ acc.1
    (r.1, acc.2 || r.2)
  else acc

/-- One row of draw, its eight bits from the most significant one, at columns `ox`, ..., `ox + 7`, not wrapped (R142). -/
def drawRow (row : Byte) (ox cy : Nat) (acc : Framebuffer × Bool) : Framebuffer × Bool :=
  (List.range 8).foldl (fun acc b => drawPixel (row.getLsbD (7 - b)) (ox + b) cy acc) acc

/-- The rows of draw at `oy`, `oy + 1`, ..., not wrapped (R142). -/
def drawSprite : List Byte → Nat → Nat → Framebuffer × Bool → Framebuffer × Bool
  | [], _, _, acc => acc
  | row :: rows, ox, oy, acc => drawSprite rows ox (oy + 1) (drawRow row ox oy acc)

/-- clear (R141): all pixels off, then one present event; VF is unchanged. -/
def execClear (s : State) : Host.Outcome State Fault Refusal :=
  .next ((s.setFB blankFramebuffer).present)

/-- draw x,y,n (R142): the origin wraps once, is read before VF is reset, VF is the collision flag, one present event. -/
def execDraw (x y : RegIdx) (n : Nibble) (s : State) : Host.Outcome State Fault Refusal :=
  .next (s.withRange s.i.toNat n.toNat (.draw x y n) fun s =>
    let drawn := drawSprite (s.spriteBytes n) ((s.reg x).toNat % Config.width) ((s.reg y).toNat % Config.height)
      (s.fb, false)
    ((s.setV vf (flagByte drawn.2)).setFB drawn.1).present)

end Sys2Proof.Machine
end

