-- ==== Sys2Proof/Machine/IndexMemory.lean ====
section
/-! DEFINITION. The meanings of the index register and memory transfer (42_index_memory.md R130 to R135). Every address is
checked before any change (20_memory.md R66). -/

namespace Sys2Proof.Machine

/-- load-i nnn (R130). -/
def execLoadI (nnn : BitVec 12) (s : State) : Host.Outcome State Fault Refusal :=
  .next (s.setI (zextAddr nnn))

/-- add-i x (R131): 16-bit wrap, no flag. -/
def execAddI (x : RegIdx) (s : State) : Host.Outcome State Fault Refusal :=
  .next (s.setI (s.i + zextByte (s.reg x)))

/-- load-font-addr x (R132). -/
def execLoadFontAddr (x : RegIdx) (s : State) : Host.Outcome State Fault Refusal :=
  .next (s.setI (fontAddr (s.reg x)))

/-- store-bcd x (R133): three digits at I, I+1, I+2; I is unchanged. -/
def execStoreBcd (x : RegIdx) (s : State) : Host.Outcome State Fault Refusal :=
  .next (s.withRange s.i.toNat 3 (.storeBcd x) fun s =>
    s.setMem (Memory.writeBytes s.mem s.i.toNat (bcdDigits (s.reg x))))

/-- store-regs x (R134): V[0] to V[x] at I, ..., I+x; I is unchanged. -/
def execStoreRegs (x : RegIdx) (s : State) : Host.Outcome State Fault Refusal :=
  .next (s.withRange s.i.toNat (x.val + 1) (.storeRegs x) fun s =>
    s.setMem (Memory.writeBytes s.mem s.i.toNat (s.regsUpTo x)))

/-- load-regs x (R135): V[0] to V[x] from I, ..., I+x; I is unchanged. -/
def execLoadRegs (x : RegIdx) (s : State) : Host.Outcome State Fault Refusal :=
  .next (s.withRange s.i.toNat (x.val + 1) (.loadRegs x) fun s => s.setRegs (s.regsLoaded x))

end Sys2Proof.Machine
end

