-- ==== Sys2Proof/Machine/TimersInput.lean ====
section
/-! DEFINITION. The meanings of key input and the timer instructions (44_timers_input.md R150 to R155). -/

namespace Sys2Proof.Machine

/-- A key query on the value `k` and the skip it decides: a value of 16 or more stops instruction `i`; otherwise PC skips
when the free answer to KeyDown is `want` (R150, R151, 60_exceptions.md R181, R182; log 8). -/
def State.skipOnKey (s : State) (k : Byte) (want : Bool) (i : Instr) : State :=
  match keyOperand k with
  | none => s.raise (.keyOutOfRange k) i
  | some key => (s.skipIf (Config.keyDown s.oracleIx key == want)).nextAnswer

/-- skip-key-pressed x (R150). -/
def execSkipKeyPressed (x : RegIdx) (s : State) : Host.Outcome State Fault Refusal :=
  .next (s.skipOnKey (s.reg x) true (.skipKeyPressed x))

/-- skip-key-not-pressed x (R151). -/
def execSkipKeyNotPressed (x : RegIdx) (s : State) : Host.Outcome State Fault Refusal :=
  .next (s.skipOnKey (s.reg x) false (.skipKeyNotPressed x))

/-- load-delay x (R152). -/
def execLoadDelay (x : RegIdx) (s : State) : Host.Outcome State Fault Refusal :=
  .next (s.setV x s.dt)

/-- wait-key x (R153): a poll that finds no key moves PC back to this instruction; log 8. -/
def execWaitKey (x : RegIdx) (s : State) : Host.Outcome State Fault Refusal :=
  .next (match Config.pressedKey s.oracleIx with
    | none => (s.setPc (s.pc - 2)).nextAnswer
    | some k => (s.setV x (keyValue k)).nextAnswer)

/-- store-delay x (R154). -/
def execStoreDelay (x : RegIdx) (s : State) : Host.Outcome State Fault Refusal :=
  .next (s.setDT (s.reg x))

/-- store-sound x (R155). -/
def execStoreSound (x : RegIdx) (s : State) : Host.Outcome State Fault Refusal :=
  .next (s.setST (s.reg x))

end Sys2Proof.Machine
end

