-- ==== Sys2Proof/Machine/Step.lean ====
section
/-! DEFINITION. One step of the core (30_encoding.md R88). -/

namespace Sys2Proof.Machine

/-- A stopped core has no step (10_state.md R42); otherwise the Ticks before the step occur (60_exceptions.md R178), then
the opcode at PC is fetched, PC is advanced, and the instruction executes (30_encoding.md R88; logs 4 and 6). -/
def step (s : State) : Host.Outcome State Fault Refusal :=
  match s.stop with
  | some record => .fault (.stopped record)
  | none =>
    match s.elapse.fetch with
    | .error address => .next (s.elapse.raiseFetch address)
    | .ok op => exec (decode op) s.elapse.advancePc

/-- The state with an instruction of the opcode table stored where the next step fetches (log 17). -/
def State.withFetchWord (s : State) (nbits w : Nat) : State := s.placeOpcode (tableOpcode nbits w)

end Sys2Proof.Machine
end

