-- ==== Sys2Proof/Machine/Assembly.lean ====
section
/-! DEFINITION. The assembler syntax, as a name and a list of operands, and its text (30_encoding.md R94, R95; log 19). -/

namespace Sys2Proof

/-- An operand as it is written. The last seven are the fixed operands of the conventional aliases (R90, R94). -/
inductive AsmOperand where
  /-- `V0` to `VF` -/
  | reg (x : RegIdx)
  /-- `0xNN` -/
  | byte (nn : Byte)
  /-- `0xNNN` -/
  | addr (nnn : BitVec 12)
  /-- a decimal from 0 to 15 -/
  | height (n : Nibble)
  /-- `I` -/
  | i
  /-- `[I]` -/
  | atI
  /-- `DT` -/
  | dt
  /-- `ST` -/
  | st
  /-- `K` -/
  | k
  /-- `F` -/
  | f
  /-- `B` -/
  | b
  deriving DecidableEq, Repr

/-- One line of assembly: a name, and operands that are written separated by commas. -/
structure AsmLine where
  name : String
  operands : List AsmOperand
  deriving DecidableEq, Repr

/-! ## Text -/

/-- The upper-case hexadecimal digit of a nibble. -/
def hexDigit (n : Nibble) : Char :=
  if n.toNat < 10 then Char.ofNat (48 + n.toNat) else Char.ofNat (55 + n.toNat)

/-- An operand's text. -/
def AsmOperand.text : AsmOperand → List Char
  | .reg x => ['V', hexDigit (regField x)]
  | .byte nn => ['0', 'x', hexDigit (nn.extractLsb' 4 4), hexDigit (nn.extractLsb' 0 4)]
  | .addr nnn => ['0', 'x', hexDigit (nnn.extractLsb' 8 4), hexDigit (nnn.extractLsb' 4 4), hexDigit (nnn.extractLsb' 0 4)]
  | .height n => if n.toNat < 10 then [hexDigit n] else ['1', hexDigit (n - 10#4)]
  | .i => ['I']
  | .atI => ['[', 'I', ']']
  | .dt => ['D', 'T']
  | .st => ['S', 'T']
  | .k => ['K']
  | .f => ['F']
  | .b => ['B']

/-- Operands separated by commas. -/
def operandsText : List AsmOperand → List Char
  | [] => []
  | [o] => o.text
  | o :: os => o.text ++ ',' :: operandsText os

/-- A line's text: the name, a space, the operands. -/
def AsmLine.text (l : AsmLine) : String :=
  match l.operands with
  | [] => l.name
  | os => l.name ++ " " ++ String.ofList (operandsText os)

/-! ## From an instruction to its line -/

/-- The spelling of R94. The ignored nibbles of clear, return, skip-eq-reg and skip-ne-reg are not written; shr and shl write
their ignored Vy. An opcode that no row matches has no spelling: there are no pseudo-instructions (R95). -/
def disassemble : Instr → Option AsmLine
  | .clear _ => some ⟨"clear", []⟩
  | .ret _ => some ⟨"return", []⟩
  | .jump nnn => some ⟨"jump", [.addr nnn]⟩
  | .call nnn => some ⟨"call", [.addr nnn]⟩
  | .skipEq x nn => some ⟨"skip-eq", [.reg x, .byte nn]⟩
  | .skipNe x nn => some ⟨"skip-ne", [.reg x, .byte nn]⟩
  | .skipEqReg x y _ => some ⟨"skip-eq-reg", [.reg x, .reg y]⟩
  | .load x nn => some ⟨"load", [.reg x, .byte nn]⟩
  | .addImm x nn => some ⟨"add-imm", [.reg x, .byte nn]⟩
  | .move x y => some ⟨"move", [.reg x, .reg y]⟩
  | .or x y => some ⟨"or", [.reg x, .reg y]⟩
  | .and x y => some ⟨"and", [.reg x, .reg y]⟩
  | .xor x y => some ⟨"xor", [.reg x, .reg y]⟩
  | .add x y => some ⟨"add", [.reg x, .reg y]⟩
  | .sub x y => some ⟨"sub", [.reg x, .reg y]⟩
  | .shr x y => some ⟨"shr", [.reg x, .reg y]⟩
  | .subn x y => some ⟨"subn", [.reg x, .reg y]⟩
  | .shl x y => some ⟨"shl", [.reg x, .reg y]⟩
  | .skipNeReg x y _ => some ⟨"skip-ne-reg", [.reg x, .reg y]⟩
  | .loadI nnn => some ⟨"load-i", [.addr nnn]⟩
  | .jumpPlusV0 nnn => some ⟨"jump-plus-v0", [.addr nnn]⟩
  | .rand x nn => some ⟨"rand", [.reg x, .byte nn]⟩
  | .draw x y n => some ⟨"draw", [.reg x, .reg y, .height n]⟩
  | .skipKeyPressed x => some ⟨"skip-key-pressed", [.reg x]⟩
  | .skipKeyNotPressed x => some ⟨"skip-key-not-pressed", [.reg x]⟩
  | .loadDelay x => some ⟨"load-delay", [.reg x]⟩
  | .waitKey x => some ⟨"wait-key", [.reg x]⟩
  | .storeDelay x => some ⟨"store-delay", [.reg x]⟩
  | .storeSound x => some ⟨"store-sound", [.reg x]⟩
  | .addI x => some ⟨"add-i", [.reg x]⟩
  | .loadFontAddr x => some ⟨"load-font-addr", [.reg x]⟩
  | .storeBcd x => some ⟨"store-bcd", [.reg x]⟩
  | .storeRegs x => some ⟨"store-regs", [.reg x]⟩
  | .loadRegs x => some ⟨"load-regs", [.reg x]⟩
  | .noop _ => none

/-! ## From a line to its instruction -/

/-- Names with no operand. -/
def assemble0 (name : String) : Option Instr :=
  if name = "clear" then some (.clear 0#4)
  else if name = "return" then some (.ret 0#4)
  else none

/-- Names with one address. -/
def assembleAddr (name : String) (nnn : BitVec 12) : Option Instr :=
  if name = "jump" then some (.jump nnn)
  else if name = "call" then some (.call nnn)
  else if name = "load-i" then some (.loadI nnn)
  else if name = "jump-plus-v0" then some (.jumpPlusV0 nnn)
  else none

/-- Names with a register and a byte. -/
def assembleRegByte (name : String) (x : RegIdx) (nn : Byte) : Option Instr :=
  if name = "skip-eq" then some (.skipEq x nn)
  else if name = "skip-ne" then some (.skipNe x nn)
  else if name = "load" then some (.load x nn)
  else if name = "add-imm" then some (.addImm x nn)
  else if name = "rand" then some (.rand x nn)
  else none

/-- Names with two registers. -/
def assembleRegReg (name : String) (x y : RegIdx) : Option Instr :=
  if name = "skip-eq-reg" then some (.skipEqReg x y 0#4)
  else if name = "skip-ne-reg" then some (.skipNeReg x y 0#4)
  else if name = "move" then some (.move x y)
  else if name = "or" then some (.or x y)
  else if name = "and" then some (.and x y)
  else if name = "xor" then some (.xor x y)
  else if name = "add" then some (.add x y)
  else if name = "sub" then some (.sub x y)
  else if name = "subn" then some (.subn x y)
  else if name = "shr" then some (.shr x y)
  else if name = "shl" then some (.shl x y)
  else none

/-- Names with one register; `shr Vx` means y = 0, and so does `shl Vx` (log 19). -/
def assembleReg (name : String) (x : RegIdx) : Option Instr :=
  if name = "shr" then some (.shr x 0)
  else if name = "shl" then some (.shl x 0)
  else if name = "skip-key-pressed" then some (.skipKeyPressed x)
  else if name = "skip-key-not-pressed" then some (.skipKeyNotPressed x)
  else if name = "load-delay" then some (.loadDelay x)
  else if name = "wait-key" then some (.waitKey x)
  else if name = "store-delay" then some (.storeDelay x)
  else if name = "store-sound" then some (.storeSound x)
  else if name = "add-i" then some (.addI x)
  else if name = "load-font-addr" then some (.loadFontAddr x)
  else if name = "store-bcd" then some (.storeBcd x)
  else if name = "store-regs" then some (.storeRegs x)
  else if name = "load-regs" then some (.loadRegs x)
  else none

/-- The instruction a line stands for; an ignored nibble assembles as 0 (R94). -/
def assemble (l : AsmLine) : Option Instr :=
  match l.operands with
  | [] => assemble0 l.name
  | [.addr nnn] => assembleAddr l.name nnn
  | [.reg x, .byte nn] => assembleRegByte l.name x nn
  | [.reg x, .reg y] => assembleRegReg l.name x y
  | [.reg x] => assembleReg l.name x
  | [.reg x, .reg y, .height n] => if l.name = "draw" then some (.draw x y n) else none
  | _ => none

/-! ## The conventional aliases (R90's mnemonic column, R94; PRESUMED by the spec, GK7) -/

/-- The alias `LD` by its operands. -/
def assembleLD : List AsmOperand → Option Instr
  | [.reg x, .byte nn] => some (.load x nn)
  | [.reg x, .reg y] => some (.move x y)
  | [.i, .addr nnn] => some (.loadI nnn)
  | [.reg x, .dt] => some (.loadDelay x)
  | [.reg x, .k] => some (.waitKey x)
  | [.dt, .reg x] => some (.storeDelay x)
  | [.st, .reg x] => some (.storeSound x)
  | [.f, .reg x] => some (.loadFontAddr x)
  | [.b, .reg x] => some (.storeBcd x)
  | [.atI, .reg x] => some (.storeRegs x)
  | [.reg x, .atI] => some (.loadRegs x)
  | _ => none

/-- The instruction an alias stands for. -/
def assembleAlias (l : AsmLine) : Option Instr :=
  if l.name = "LD" then assembleLD l.operands
  else
    match l.operands with
    | [] => if l.name = "CLS" then some (.clear 0#4) else if l.name = "RET" then some (.ret 0#4) else none
    | [.addr nnn] => if l.name = "JP" then some (.jump nnn) else if l.name = "CALL" then some (.call nnn) else none
    | [.reg x, .addr nnn] => if l.name = "JP" ∧ x = 0 then some (.jumpPlusV0 nnn) else none
    | [.i, .reg x] => if l.name = "ADD" then some (.addI x) else none
    | [.reg x, .byte nn] =>
      if l.name = "SE" then some (.skipEq x nn)
      else if l.name = "SNE" then some (.skipNe x nn)
      else if l.name = "ADD" then some (.addImm x nn)
      else if l.name = "RND" then some (.rand x nn)
      else none
    | [.reg x, .reg y] =>
      if l.name = "SE" then some (.skipEqReg x y 0#4)
      else if l.name = "SNE" then some (.skipNeReg x y 0#4)
      else if l.name = "OR" then some (.or x y)
      else if l.name = "AND" then some (.and x y)
      else if l.name = "XOR" then some (.xor x y)
      else if l.name = "ADD" then some (.add x y)
      else if l.name = "SUB" then some (.sub x y)
      else if l.name = "SUBN" then some (.subn x y)
      else none
    | [.reg x] =>
      if l.name = "SHR" then some (.shr x 0)
      else if l.name = "SHL" then some (.shl x 0)
      else if l.name = "SKP" then some (.skipKeyPressed x)
      else if l.name = "SKNP" then some (.skipKeyNotPressed x)
      else none
    | [.reg x, .reg y, .height n] => if l.name = "DRW" then some (.draw x y n) else none
    | _ => none

/-! ## From text -/

/-- The value of a hexadecimal digit, of either case. -/
def hexValue (c : Char) : Option Nibble :=
  if 48 ≤ c.toNat ∧ c.toNat ≤ 57 then some (BitVec.ofNat 4 (c.toNat - 48))
  else if 65 ≤ c.toNat ∧ c.toNat ≤ 70 then some (BitVec.ofNat 4 (c.toNat - 55))
  else if 97 ≤ c.toNat ∧ c.toNat ≤ 102 then some (BitVec.ofNat 4 (c.toNat - 87))
  else none

/-- The value of a decimal digit. -/
def decimalValue (c : Char) : Option Nibble :=
  if 48 ≤ c.toNat ∧ c.toNat ≤ 57 then some (BitVec.ofNat 4 (c.toNat - 48)) else none

/-- Read one operand. -/
def readOperand : List Char → Option AsmOperand
  | ['V', d] => (hexValue d).map fun x => .reg x.toFin
  | ['0', 'x', a, b] => (hexValue a).bind fun a => (hexValue b).map fun b => .byte (a ++ b)
  | ['0', 'x', a, b, c] => (hexValue a).bind fun a => (hexValue b).bind fun b => (hexValue c).map fun c => .addr (a ++ b ++ c)
  | ['D', 'T'] => some .dt
  | ['S', 'T'] => some .st
  | ['[', 'I', ']'] => some .atI
  | ['I'] => some .i
  | ['K'] => some .k
  | ['F'] => some .f
  | ['B'] => some .b
  | ['1', d] => (decimalValue d).bind fun d => if d.toNat < 6 then some (.height (10#4 + d)) else none
  | [d] => (decimalValue d).map .height
  | _ => none

/-- The characters up to the first `c`, and those after it, none if there is no `c`. -/
def splitAtChar (c : Char) : List Char → List Char × Option (List Char)
  | [] => ([], none)
  | d :: ds => if d = c then ([], some ds) else ((d :: (splitAtChar c ds).1), (splitAtChar c ds).2)

/-- Read operands separated by commas; the first argument holds the characters of the operand being read, reversed. -/
def readOperands : List Char → List Char → Option (List AsmOperand)
  | cur, [] => (readOperand cur.reverse).map fun o => [o]
  | cur, c :: cs =>
    if c = ',' then (readOperand cur.reverse).bind fun o => (readOperands [] cs).map fun os => o :: os
    else readOperands (c :: cur) cs

/-- Read a line: a name, and after a space its operands. -/
def readLine (text : String) : Option AsmLine :=
  match splitAtChar ' ' text.toList with
  | (name, none) => some ⟨String.ofList name, []⟩
  | (name, some rest) => (readOperands [] rest).map fun os => ⟨String.ofList name, os⟩

/-- The instruction a text stands for, by its name or its conventional alias. -/
def assembleText (text : String) : Option Instr :=
  (readLine text).bind fun l => (assemble l).or (assembleAlias l)

/-- An instruction with its ignored nibbles, those the spelling does not write, at 0. -/
def Instr.canonical : Instr → Instr
  | .clear _ => .clear 0#4
  | .ret _ => .ret 0#4
  | .skipEqReg x y _ => .skipEqReg x y 0#4
  | .skipNeReg x y _ => .skipNeReg x y 0#4
  | i => i

end Sys2Proof
end

