-- ==== Sys2Proof/WellFormed.lean ====
section
/-! DEFINITION. Which instruction terms stand for an opcode. -/

namespace Sys2Proof

/-- Every operand value is encodable (30_encoding.md R81); a no-op must carry an opcode that no row of R90 matches (R87). -/
def Instr.wf : Instr → Bool
  | .clear _ => true
  | .ret _ => true
  | .jump _ => true
  | .call _ => true
  | .skipEq _ _ => true
  | .skipNe _ _ => true
  | .skipEqReg _ _ _ => true
  | .load _ _ => true
  | .addImm _ _ => true
  | .move _ _ => true
  | .or _ _ => true
  | .and _ _ => true
  | .xor _ _ => true
  | .add _ _ => true
  | .sub _ _ => true
  | .shr _ _ => true
  | .subn _ _ => true
  | .shl _ _ => true
  | .skipNeReg _ _ _ => true
  | .loadI _ => true
  | .jumpPlusV0 _ => true
  | .rand _ _ => true
  | .draw _ _ _ => true
  | .skipKeyPressed _ => true
  | .skipKeyNotPressed _ => true
  | .loadDelay _ => true
  | .waitKey _ => true
  | .storeDelay _ => true
  | .storeSound _ => true
  | .addI _ => true
  | .loadFontAddr _ => true
  | .storeBcd _ => true
  | .storeRegs _ => true
  | .loadRegs _ => true
  | .noop op => unmatched op

end Sys2Proof
end

