-- ==== Sys2Proof/Safety.lean ====
section
/-! DEFINITION. What holds of the states of a run: the invariant, the legal stop record, the end of a run. -/

namespace Sys2Proof.Machine

/-- The highest PC a step can leave (10_state.md R33). -/
abbrev maxPc : Nat := 0x10FE

/-- EMPTY implies SP = 0 (10_state.md R37), and every live entry is a return address a call can push: at most 0xFFF, since a
call fetched below MEM_SIZE - 1 (40_control_flow.md R102, 30_encoding.md R88). -/
def CallStack.Inv (k : CallStack) : Prop :=
  (k.empty = true → k.sp = 0) ∧ ∀ a ∈ k.toList, a.toNat ≤ 0xFFF

/-- A record that a step of the core can latch, beside the PC that step left: PC is a + 2 for a stop raised in execution and a
for a fetch stop (60_exceptions.md R170 to R172). -/
def StopRecord.Legal (r : StopRecord) (pc : Addr) : Prop :=
  match r.opcode with
  | none => pc = r.fetchPc ∧ ∃ a, r.cause = .memoryOutOfRange a ∧ Config.memSize ≤ a
  | some op => pc = r.fetchPc + 2 ∧
      match r.cause with
      | .stackOverflow returnAddr => (∃ nnn, decode op = .call nnn) ∧ returnAddr = pc
      | .stackUnderflow => ∃ z, decode op = .ret z
      | .memoryOutOfRange a => Config.memSize ≤ a ∧
          ((∃ x y n, decode op = .draw x y n) ∨ (∃ x, decode op = .storeBcd x) ∨ (∃ x, decode op = .storeRegs x) ∨
            ∃ x, decode op = .loadRegs x)
      | .keyOutOfRange k => Config.numKeys ≤ k.toNat ∧
          ((∃ x, decode op = .skipKeyPressed x) ∨ ∃ x, decode op = .skipKeyNotPressed x)

/-- What holds at reset and what every step keeps: PC is at most 0x10FE (10_state.md R33), the stack is consistent (R37), memory
is canonical and within MEM_SIZE (20_memory.md R60), and a latched stop record is one the spec lets a step latch
(60_exceptions.md R172). -/
structure State.Inv (s : State) : Prop where
  pc_le : s.pc.toNat ≤ maxPc
  stack : s.stk.Inv
  mem_wf : Memory.wf s.mem = true
  stop_legal : ∀ r, s.stop = some r → r.Legal s.pc

/-! ## What an instruction may write (30_encoding.md R89: the write set of each rule) -/

/-- The general registers an instruction's rule writes, VF as a flag included (10_state.md R31). -/
def writesReg (i : Instr) (r : RegIdx) : Prop :=
  match i with
  | .load x _ => r = x
  | .addImm x _ => r = x
  | .move x _ => r = x
  | .or x _ => r = x
  | .and x _ => r = x
  | .xor x _ => r = x
  | .add x _ => r = x ∨ r = 0xF
  | .sub x _ => r = x ∨ r = 0xF
  | .shr x _ => r = x ∨ r = 0xF
  | .subn x _ => r = x ∨ r = 0xF
  | .shl x _ => r = x ∨ r = 0xF
  | .rand x _ => r = x
  | .draw _ _ _ => r = 0xF
  | .loadDelay x => r = x
  | .waitKey x => r = x
  | .loadRegs x => r ≤ x
  | .clear _ => False
  | .ret _ => False
  | .jump _ => False
  | .call _ => False
  | .skipEq _ _ => False
  | .skipNe _ _ => False
  | .skipEqReg _ _ _ => False
  | .skipNeReg _ _ _ => False
  | .loadI _ => False
  | .jumpPlusV0 _ => False
  | .skipKeyPressed _ => False
  | .skipKeyNotPressed _ => False
  | .storeDelay _ => False
  | .storeSound _ => False
  | .addI _ => False
  | .loadFontAddr _ => False
  | .storeBcd _ => False
  | .storeRegs _ => False
  | .noop _ => False

/-- The instructions that transfer control, the only ones that write PC after the fetch (10_state.md R33; 40_control_flow.md;
44_timers_input.md R150, R151, R153). -/
def writesPc (i : Instr) : Prop :=
  (∃ z, i = .ret z) ∨ (∃ nnn, i = .jump nnn) ∨ (∃ nnn, i = .call nnn) ∨ (∃ x nn, i = .skipEq x nn) ∨
  (∃ x nn, i = .skipNe x nn) ∨ (∃ x y z, i = .skipEqReg x y z) ∨ (∃ x y z, i = .skipNeReg x y z) ∨
  (∃ nnn, i = .jumpPlusV0 nnn) ∨ (∃ x, i = .skipKeyPressed x) ∨ (∃ x, i = .skipKeyNotPressed x) ∨ ∃ x, i = .waitKey x

/-- The instructions that write I (10_state.md R32). -/
def writesI (i : Instr) : Prop :=
  (∃ nnn, i = .loadI nnn) ∨ (∃ x, i = .addI x) ∨ ∃ x, i = .loadFontAddr x

/-- The instructions that write the call stack (10_state.md R36). -/
def writesStack (i : Instr) : Prop :=
  (∃ nnn, i = .call nnn) ∨ ∃ z, i = .ret z

/-- The instructions that change the framebuffer and present it (10_state.md R40; 60_exceptions.md R184). -/
def writesDisplay (i : Instr) : Prop :=
  (∃ z, i = .clear z) ∨ ∃ x y n, i = .draw x y n

/-- The instructions that can raise a stop in execution (60_exceptions.md R170). -/
def mayStop (i : Instr) : Prop :=
  (∃ nnn, i = .call nnn) ∨ (∃ z, i = .ret z) ∨ (∃ x y n, i = .draw x y n) ∨ (∃ x, i = .storeBcd x) ∨
  (∃ x, i = .storeRegs x) ∨ (∃ x, i = .loadRegs x) ∨ (∃ x, i = .skipKeyPressed x) ∨ ∃ x, i = .skipKeyNotPressed x

/-- The addresses an instruction stores to: none but those from I on of store-bcd and store-regs (20_memory.md R70). -/
def storesTo (i : Instr) (s : State) (a : Nat) : Prop :=
  match i with
  | .storeBcd _ => s.i.toNat ≤ a ∧ a < s.i.toNat + 3
  | .storeRegs x => s.i.toNat ≤ a ∧ a < s.i.toNat + (x.val + 1)
  | .clear _ => False
  | .ret _ => False
  | .jump _ => False
  | .call _ => False
  | .skipEq _ _ => False
  | .skipNe _ _ => False
  | .skipEqReg _ _ _ => False
  | .load _ _ => False
  | .addImm _ _ => False
  | .move _ _ => False
  | .or _ _ => False
  | .and _ _ => False
  | .xor _ _ => False
  | .add _ _ => False
  | .sub _ _ => False
  | .shr _ _ => False
  | .subn _ _ => False
  | .shl _ _ => False
  | .skipNeReg _ _ _ => False
  | .loadI _ => False
  | .jumpPlusV0 _ => False
  | .rand _ _ => False
  | .draw _ _ _ => False
  | .skipKeyPressed _ => False
  | .skipKeyNotPressed _ => False
  | .loadDelay _ => False
  | .waitKey _ => False
  | .storeDelay _ => False
  | .storeSound _ => False
  | .addI _ => False
  | .loadFontAddr _ => False
  | .loadRegs _ => False
  | .noop _ => False

/-- Instruction `i` completes at `s`, writes `result` to V[x] and then `flag` to VF, so that VF is the flag when x is 0xF, and
changes nothing else (41_alu.md R110). -/
def WritesResultAndFlag (i : Instr) (s : State) (x : RegIdx) (result flag : Nat) : Prop :=
  ∃ t : State, exec i s = .next t ∧ t = { s with v := t.v } ∧
    (∀ r, r ≠ x → r ≠ 0xF → t.reg r = s.reg r) ∧
    (x ≠ 0xF → (t.reg x).toNat = result) ∧ (t.reg 0xF).toNat = flag

/-- Instruction `i` stops at `s` with `cause`: the record is latched, and nothing else changes (60_exceptions.md R171, R172). -/
def StopsWith (i : Instr) (s : State) (cause : StopCause) : Prop :=
  exec i s = .next { s with stop := some { cause := cause, fetchPc := s.pc - 2, opcode := some (encode i) } }

/-! ## The sprite rectangle (43_display.md R142) -/

/-- Pixel (cx, cy) lies in the sprite's rectangle of `n` rows and 8 columns at origin (ox, oy); positions off the display are
clipped because `cx` and `cy` are on it. -/
abbrev inSprite (ox oy n : Nat) (cx : Fin 64) (cy : Fin 32) : Prop :=
  ox ≤ cx.val ∧ cx.val < ox + 8 ∧ oy ≤ cy.val ∧ cy.val < oy + n

/-- The sprite's bit for pixel (cx, cy) of its rectangle: bit 7 of MEM[I + row] is the leftmost. -/
def spriteBit (mem : Memory) (base ox oy : Nat) (cx : Fin 64) (cy : Fin 32) : Bool :=
  (Memory.byteAt mem (base + (cy.val - oy))).getLsbD (7 - (cx.val - ox))

/-! ## The end of a run -/

/-- The core is idle: the opcode at PC is a jump to PC itself (70_reset_and_hazards.md R198(b)). -/
def State.idle (s : State) : Bool :=
  match s.fetch with
  | .ok op => decode op == .jump (nnnOf op) && zextAddr (nnnOf op) == s.pc
  | .error _ => false

/-- The end of a run: a latched stop, or the idle jump (70_reset_and_hazards.md R198; log 16). -/
def State.ended (s : State) : Bool := s.stop.isSome || s.idle

end Sys2Proof.Machine
end

