-- ==== Sys2Proof/Certificates/Slice0/Obligations.lean ====
section
/-! DEFINITION. The statements about the model, from the numbered rules of spec/. -/

open Sys2Proof Sys2Proof.Machine

/-! ## Encoding (30_encoding.md) -/

/-- Words written out from the encoding column of R90 and the decode vectors DE1 to DE13 of 95_test_vectors.md decode to the
instructions they stand for (second-level values PRESUMED by the spec, GK1; log 14). -/
def Obligations.SpecWordsDecodeAsWritten : Prop :=
  decode 0x00E0#16 = .clear 0x0#4 ∧ decode 0x0AE0#16 = .clear 0xA#4 ∧ decode 0x0FEE#16 = .ret 0xF#4 ∧
  decode 0x0123#16 = .noop 0x0123#16 ∧ decode 0x1ABC#16 = .jump 0xABC#12 ∧ decode 0x2300#16 = .call 0x300#12 ∧
  decode 0x5AB7#16 = .skipEqReg 0xA 0xB 0x7#4 ∧ decode 0x7AFF#16 = .addImm 0xA 0xFF#8 ∧
  decode 0x8AB4#16 = .add 0xA 0xB ∧ decode 0x8ABE#16 = .shl 0xA 0xB ∧ decode 0x8AB8#16 = .noop 0x8AB8#16 ∧
  decode 0xD125#16 = .draw 0x1 0x2 0x5#4 ∧ decode 0xE59E#16 = .skipKeyPressed 0x5 ∧
  decode 0xF565#16 = .loadRegs 0x5 ∧ decode 0xF575#16 = .noop 0xF575#16

/-- Decoding the encoding of a well-formed instruction gives it back (R81, R83, R90). -/
def Obligations.DecodeOfEncodeIsIdentity : Prop :=
  ∀ i : Instr, i.wf = true → decode (encode i) = i

/-- Every 16-bit value decodes to one well-formed instruction whose encoding it is: no two opcodes share an instruction, and no
bit is dropped (R83). -/
def Obligations.EveryOpcodeIsOneInstruction : Prop :=
  ∀ op : Opcode, (decode op).wf = true ∧ encode (decode op) = op

/-- The opcode map of R90: an opcode selects a row when `op & mask = match`, with the operand fields of R81, and an opcode that
selects no row is the no-op. The second-level values and the places of y, n and nnn are PRESUMED by the spec (GK1, GK2; log 14). -/
def Obligations.OpcodeMapSelectsTheOperation : Prop :=
  ∀ (op : Opcode) (x y : RegIdx) (hi n : Nibble) (nn : Byte) (nnn : BitVec 12),
    x = (op.extractLsb' 8 4).toFin → y = (op.extractLsb' 4 4).toFin → hi = op.extractLsb' 8 4 → n = op.extractLsb' 0 4 →
    nn = op.extractLsb' 0 8 → nnn = op.extractLsb' 0 12 →
    (op &&& 0xF0FF#16 = 0x00E0#16 ↔ decode op = .clear hi) ∧
    (op &&& 0xF0FF#16 = 0x00EE#16 ↔ decode op = .ret hi) ∧
    (op &&& 0xF000#16 = 0x1000#16 ↔ decode op = .jump nnn) ∧
    (op &&& 0xF000#16 = 0x2000#16 ↔ decode op = .call nnn) ∧
    (op &&& 0xF000#16 = 0x3000#16 ↔ decode op = .skipEq x nn) ∧
    (op &&& 0xF000#16 = 0x4000#16 ↔ decode op = .skipNe x nn) ∧
    (op &&& 0xF000#16 = 0x5000#16 ↔ decode op = .skipEqReg x y n) ∧
    (op &&& 0xF000#16 = 0x6000#16 ↔ decode op = .load x nn) ∧
    (op &&& 0xF000#16 = 0x7000#16 ↔ decode op = .addImm x nn) ∧
    (op &&& 0xF00F#16 = 0x8000#16 ↔ decode op = .move x y) ∧
    (op &&& 0xF00F#16 = 0x8001#16 ↔ decode op = .or x y) ∧
    (op &&& 0xF00F#16 = 0x8002#16 ↔ decode op = .and x y) ∧
    (op &&& 0xF00F#16 = 0x8003#16 ↔ decode op = .xor x y) ∧
    (op &&& 0xF00F#16 = 0x8004#16 ↔ decode op = .add x y) ∧
    (op &&& 0xF00F#16 = 0x8005#16 ↔ decode op = .sub x y) ∧
    (op &&& 0xF00F#16 = 0x8006#16 ↔ decode op = .shr x y) ∧
    (op &&& 0xF00F#16 = 0x8007#16 ↔ decode op = .subn x y) ∧
    (op &&& 0xF00F#16 = 0x800E#16 ↔ decode op = .shl x y) ∧
    (op &&& 0xF000#16 = 0x9000#16 ↔ decode op = .skipNeReg x y n) ∧
    (op &&& 0xF000#16 = 0xA000#16 ↔ decode op = .loadI nnn) ∧
    (op &&& 0xF000#16 = 0xB000#16 ↔ decode op = .jumpPlusV0 nnn) ∧
    (op &&& 0xF000#16 = 0xC000#16 ↔ decode op = .rand x nn) ∧
    (op &&& 0xF000#16 = 0xD000#16 ↔ decode op = .draw x y n) ∧
    (op &&& 0xF0FF#16 = 0xE09E#16 ↔ decode op = .skipKeyPressed x) ∧
    (op &&& 0xF0FF#16 = 0xE0A1#16 ↔ decode op = .skipKeyNotPressed x) ∧
    (op &&& 0xF0FF#16 = 0xF007#16 ↔ decode op = .loadDelay x) ∧
    (op &&& 0xF0FF#16 = 0xF00A#16 ↔ decode op = .waitKey x) ∧
    (op &&& 0xF0FF#16 = 0xF015#16 ↔ decode op = .storeDelay x) ∧
    (op &&& 0xF0FF#16 = 0xF018#16 ↔ decode op = .storeSound x) ∧
    (op &&& 0xF0FF#16 = 0xF01E#16 ↔ decode op = .addI x) ∧
    (op &&& 0xF0FF#16 = 0xF029#16 ↔ decode op = .loadFontAddr x) ∧
    (op &&& 0xF0FF#16 = 0xF033#16 ↔ decode op = .storeBcd x) ∧
    (op &&& 0xF0FF#16 = 0xF055#16 ↔ decode op = .storeRegs x) ∧
    (op &&& 0xF0FF#16 = 0xF065#16 ↔ decode op = .loadRegs x) ∧
    (op &&& 0xF000#16 ∉ [0x1000#16, 0x2000#16, 0x3000#16, 0x4000#16, 0x5000#16, 0x6000#16, 0x7000#16, 0x9000#16, 0xA000#16,
        0xB000#16, 0xC000#16, 0xD000#16] →
      op &&& 0xF00F#16 ∉ [0x8000#16, 0x8001#16, 0x8002#16, 0x8003#16, 0x8004#16, 0x8005#16, 0x8006#16, 0x8007#16,
        0x800E#16] →
      op &&& 0xF0FF#16 ∉ [0x00E0#16, 0x00EE#16, 0xE09E#16, 0xE0A1#16, 0xF007#16, 0xF00A#16, 0xF015#16, 0xF018#16,
        0xF01E#16, 0xF029#16, 0xF033#16, 0xF055#16, 0xF065#16] →
      decode op = .noop op)

/-- The unmatched opcodes are exactly those R87 lists, and the no-op changes nothing: PC is already the address plus 2, and no
stop is raised. The listed second-level values are PRESUMED by the spec (GK1; log 14). -/
def Obligations.UnmatchedOpcodesAreNoOps : Prop :=
  (∀ (op : Opcode) (c n : Nibble) (nn : Byte),
    c = op.extractLsb' 12 4 → n = op.extractLsb' 0 4 → nn = op.extractLsb' 0 8 →
    (decode op = .noop op ↔
      (c = 0x0#4 ∧ nn ∉ [0xE0#8, 0xEE#8]) ∨
      (c = 0x8#4 ∧ n ∈ [0x8#4, 0x9#4, 0xA#4, 0xB#4, 0xC#4, 0xD#4, 0xF#4]) ∨
      (c = 0xE#4 ∧ nn ∉ [0x9E#8, 0xA1#8]) ∨
      (c = 0xF#4 ∧ nn ∉ [0x07#8, 0x0A#8, 0x15#8, 0x18#8, 0x1E#8, 0x29#8, 0x33#8, 0x55#8, 0x65#8]))) ∧
  ∀ (op : Opcode) (s : State), exec (.noop op) s = .next s

/-- The decoder of bytes consumes exactly two of them, whatever they are, the first as the high byte (PRESUMED by the
spec, GK3; log 14); fewer than two are refused by name (the refusal is the model's, log 17). -/
def Obligations.DecodeConsumesTwoBytes : Prop :=
  (∀ (hi lo : Byte) (rest : List Byte), decodeBytes (hi :: lo :: rest) = .ok (decode (hi ++ lo : Opcode), rest)) ∧
  ∀ bytes : List Byte, bytes.length < 2 → decodeBytes bytes = .error .truncated

/-! ## The step (30_encoding.md R88), stops and ticks (60_exceptions.md) -/

/-- One step (R88): no step when STOP holds a record; a stop with PC unchanged when a byte of the opcode does not exist, the
lower address first; otherwise the big-endian opcode is fetched, PC advances by 2, and the decoded instruction executes. What
the step adds before all this are the free Ticks of R178, `s.elapse` (log 6). -/
def Obligations.StepIsFetchAdvanceExecute : Prop :=
  ∀ s : State,
    (∀ r, s.stop = some r → step s = .fault (.stopped r)) ∧
    (s.stop = none → 4095 ≤ s.pc.toNat →
      step s = .next { s.elapse with stop := some ⟨.memoryOutOfRange s.pc.toNat, s.pc, none⟩ }) ∧
    (s.stop = none → s.pc.toNat < 4095 → 4095 ≤ s.pc.toNat + 1 →
      step s = .next { s.elapse with stop := some ⟨.memoryOutOfRange (s.pc.toNat + 1), s.pc, none⟩ }) ∧
    (s.stop = none → s.pc.toNat + 1 < 4095 →
      step s = exec (decode (Memory.byteAt s.mem s.pc.toNat ++ Memory.byteAt s.mem (s.pc.toNat + 1) : Opcode))
        { s.elapse with pc := s.pc + 2 })

/-- While STOP = none the core can take a step; once it is not, there is no further step, so that nothing but reset clears it
(10_state.md R42). -/
def Obligations.CoreStepsExactlyWhenNotStopped : Prop :=
  ∀ s : State, (∃ t, step s = .next t) ↔ s.stop = none

/-- Tick decrements each non-zero timer by one and nothing else (R177), and what precedes a step's fetch is some number of
Ticks, which the free schedule names (R178), the model's answer index moving on by one (log 6).
The saturation at 0 is PRESUMED by the spec (GK5; log 13). -/
def Obligations.TicksPrecedeTheFetch : Prop :=
  (∀ s : State, s.tick = { s with dt := (if 0 < s.dt.toNat then s.dt - 1 else s.dt),
                                  st := (if 0 < s.st.toNat then s.st - 1 else s.st) }) ∧
  ∀ s : State, ∃ n, n = Config.ticksBefore s.oracleIx ∧
    s.elapse = { State.tick^[n] s with oracleIx := s.oracleIx + 1 }

/-- A load-delay right after a store-delay may read a smaller value than was stored, never a larger one
(70_reset_and_hazards.md R195, which marks it as derived). -/
def Obligations.LoadDelayAfterStoreDelayNeverLarger : Prop :=
  ∀ (s t u : State) (op op' : Opcode) (x y : RegIdx),
    s.fetch = .ok op → decode op = .storeDelay x → step s = .next t →
    t.fetch = .ok op' → decode op' = .loadDelay y → step t = .next u →
    (u.reg y).toNat ≤ (s.reg x).toNat

/-- Every instruction, on every state, gives a next state: the model refuses and faults on none. -/
def Obligations.EveryInstructionGivesANextState : Prop :=
  ∀ (i : Instr) (s : State), ∃ t, exec i s = .next t

/-- Taking a stop (60_exceptions.md R172): the record is latched and, beside the fetch's PC advance (none for a fetch stop), no
register, memory byte, stack entry, pixel or present event changes; the timers are the ticker's and `oracleIx` is the model's own
field (logs 6 and 7). The record holds the instruction's address and the fetched opcode, and the core has no further step. -/
def Obligations.StoppingInstructionChangesNothingElse : Prop :=
  (∀ (i : Instr) (s t : State) (r : StopRecord),
    s.stop = none → exec i s = .next t → t.stop = some r →
    t = { s with stop := some r } ∧ r.fetchPc = s.pc - 2 ∧ r.opcode = some (encode i)) ∧
  ∀ (s t : State) (r : StopRecord), step s = .next t → t.stop = some r →
    ((∃ op, s.fetch = .ok op ∧ r.opcode = some op ∧
        t = { s with pc := s.pc + 2, stop := some r, dt := t.dt, st := t.st, oracleIx := t.oracleIx }) ∨
      (∃ a, s.fetch = .error a ∧ r.opcode = none ∧ r.cause = .memoryOutOfRange a ∧
        t = { s with stop := some r, dt := t.dt, st := t.st, oracleIx := t.oracleIx })) ∧
    r.fetchPc = s.pc ∧ ∀ u, step t ≠ .next u

/-- Only the instructions of R170's table stop in execution, each with its own cause. -/
def Obligations.OnlyListedInstructionsStop : Prop :=
  ∀ (i : Instr) (s t : State) (r : StopRecord),
    s.stop = none → exec i s = .next t → t.stop = some r →
    match r.cause with
    | .stackOverflow a => (∃ nnn, i = .call nnn) ∧ s.stk.toList.length = 15 ∧ a = s.pc
    | .stackUnderflow => (∃ z, i = .ret z) ∧ s.stk.toList = []
    | .memoryOutOfRange a => 4095 ≤ a ∧
        ((∃ x y n, i = .draw x y n) ∨ (∃ x, i = .storeBcd x) ∨ (∃ x, i = .storeRegs x) ∨ ∃ x, i = .loadRegs x)
    | .keyOutOfRange k => 16 ≤ k.toNat ∧
        ∃ x, (i = .skipKeyPressed x ∨ i = .skipKeyNotPressed x) ∧ s.reg x = k

/-- The codes, names and info of R170 and R171. -/
def Obligations.StopCodesNamesAndInfo : Prop :=
  ∀ (ret : Addr) (address : Nat) (key : Byte),
    ((StopCause.stackOverflow ret).code = 1 ∧ (StopCause.stackOverflow ret).name = "StackOverflow" ∧
      (StopCause.stackOverflow ret).info = some ret.toNat) ∧
    (StopCause.stackUnderflow.code = 2 ∧ StopCause.stackUnderflow.name = "StackUnderflow" ∧
      StopCause.stackUnderflow.info = none) ∧
    ((StopCause.memoryOutOfRange address).code = 3 ∧ (StopCause.memoryOutOfRange address).name = "MemoryOutOfRange" ∧
      (StopCause.memoryOutOfRange address).info = some address) ∧
    ((StopCause.keyOutOfRange key).code = 4 ∧ (StopCause.keyOutOfRange key).name = "KeyOutOfRange" ∧
      (StopCause.keyOutOfRange key).info = some key.toNat)

/-! ## Invariants and reset (10_state.md) -/

/-- Every step keeps the invariant: PC at most 0x10FE (R33), the stack consistent (R37) with entries a call can push, memory
canonical and within MEM_SIZE (log 2), and a latched record one the spec lets a step latch (60_exceptions.md R171, R172). -/
def Obligations.StepKeepsTheInvariant : Prop :=
  ∀ s t : State, s.Inv → step s = .next t → t.Inv

/-- The invariant holds at reset. -/
def Obligations.ResetMeetsTheInvariant : Prop :=
  State.reset.Inv

/-- After reset, PC = 0x200 (R46), the stack is empty with SP = 0 (R47), every pixel is off (R48), STOP = none, and one present
event is logged (R51). -/
def Obligations.ResetState : Prop :=
  State.reset.pc = 0x200#16 ∧
  (State.reset.stk.toList = [] ∧ State.reset.stk.empty = true ∧ State.reset.stk.sp = 0) ∧
  (∀ cx cy, pixel State.reset.fb cx cy = false) ∧
  State.reset.stop = none ∧ State.reset.presents = [State.reset.fb]

/-- Memory after reset and load (R50): the font at 0x050, the program at 0x200, INIT_MEM elsewhere, and the image fits or is
refused (70_reset_and_hazards.md R191). With no font placed, the font region reads as the OPEN parameter FONT (log 3). -/
def Obligations.LoadedMemoryHoldsFontAndProgram : Prop :=
  ∀ (font : Vector Byte 80) (program : List Byte),
    (∀ k, k < 80 → Memory.byteAt State.reset.mem (0x050 + k) = Config.font k) ∧
    (0xDFF < program.length → (State.reset.loadFont font).loadProgram program = none) ∧
    (program.length ≤ 0xDFF → ∃ t : State, (State.reset.loadFont font).loadProgram program = some t ∧
      t = { State.reset with mem := t.mem } ∧
      (∀ (k : Nat) (h : k < 80), Memory.byteAt t.mem (0x050 + k) = font[k]) ∧
      (∀ (k : Nat) (h : k < program.length), Memory.byteAt t.mem (0x200 + k) = program[k]) ∧
      ∀ a, a < 4095 → ¬(0x050 ≤ a ∧ a < 0x050 + 80) → ¬(0x200 ≤ a ∧ a < 0x200 + program.length) →
        Memory.byteAt t.mem a = Config.initMem a)

/-! ## The call stack (10_state.md R36 to R39) -/

/-- Push and Pop are append and removal of the last entry of a list of at most 15, and fail exactly at the bounds. -/
def Obligations.StackIsABoundedList : Prop :=
  ∀ (k : CallStack) (a : Addr),
    (k.push a = none ↔ k.toList.length = 15) ∧
    (∀ k', k.push a = some k' → k'.toList = k.toList ++ [a]) ∧
    (k.pop = none ↔ k.toList = []) ∧
    (∀ v k', k.pop = some (v, k') → k.toList = k'.toList ++ [v])

/-- Push(v) followed immediately by Pop() returns v and restores SP and EMPTY (R39, which marks it as derived), on a stack that is
consistent (R37). -/
def Obligations.PopAfterPushRestores : Prop :=
  ∀ (k k' : CallStack) (a : Addr),
    (k.empty = true → k.sp = 0) → k.push a = some k' →
    ∃ k'', k'.pop = some (a, k'') ∧ k''.sp = k.sp ∧ k''.empty = k.empty

/-! ## The frame of every instruction (30_encoding.md R89) -/

/-- An instruction changes only the state its rule names. -/
def Obligations.InstructionsChangeOnlyWhatTheirRuleNames : Prop :=
  ∀ (i : Instr) (s t : State), exec i s = .next t →
    (∀ r, ¬writesReg i r → t.reg r = s.reg r) ∧
    (¬writesPc i → t.pc = s.pc) ∧
    (¬writesI i → t.i = s.i) ∧
    ((∀ x, i ≠ .storeDelay x) → t.dt = s.dt) ∧
    ((∀ x, i ≠ .storeSound x) → t.st = s.st) ∧
    (¬writesStack i → t.stk = s.stk) ∧
    (¬writesDisplay i → t.fb = s.fb ∧ t.presents = s.presents) ∧
    (∀ a, ¬storesTo i s a → Memory.byteAt t.mem a = Memory.byteAt s.mem a) ∧
    (¬mayStop i → t.stop = s.stop)

/-! ## Control flow (40_control_flow.md) -/

/-- jump (R101) and jump-plus-v0 (R107): the target, not reduced to 12 bits, and nothing else. -/
def Obligations.JumpsSetPc : Prop :=
  ∀ (s : State) (nnn : BitVec 12),
    exec (.jump nnn) s = .next { s with pc := nnn.setWidth 16 } ∧
    ∃ t, exec (.jumpPlusV0 nnn) s = .next t ∧ t = { s with pc := t.pc } ∧ t.pc.toNat = nnn.toNat + (s.reg 0).toNat

/-- The four skips on registers (R103 to R106): PC moves 2 further when the condition holds, and nothing else changes. -/
def Obligations.SkipsMovePcPastOneInstruction : Prop :=
  ∀ (s : State) (x y : RegIdx) (nn : Byte) (z : Nibble),
    exec (.skipEq x nn) s = .next { s with pc := if s.reg x = nn then s.pc + 2 else s.pc } ∧
    exec (.skipNe x nn) s = .next { s with pc := if s.reg x = nn then s.pc else s.pc + 2 } ∧
    exec (.skipEqReg x y z) s = .next { s with pc := if s.reg x = s.reg y then s.pc + 2 else s.pc } ∧
    exec (.skipNeReg x y z) s = .next { s with pc := if s.reg x = s.reg y then s.pc else s.pc + 2 }

/-- call (R102): the return address, PC = a + 2, is pushed and PC is the target; with 15 entries it stops. -/
def Obligations.CallPushesTheReturnAddress : Prop :=
  ∀ (s : State) (nnn : BitVec 12),
    (s.stk.toList.length < 15 → ∃ t, exec (.call nnn) s = .next t ∧ t = { s with pc := t.pc, stk := t.stk } ∧
      t.stk.toList = s.stk.toList ++ [s.pc] ∧ t.pc = nnn.setWidth 16) ∧
    (s.stk.toList.length = 15 → StopsWith (.call nnn) s (.stackOverflow s.pc))

/-- return (R100): PC is the last entry, which is removed; with no entry it stops. -/
def Obligations.ReturnPopsIntoPc : Prop :=
  ∀ (s : State) (z : Nibble),
    (∀ (rest : List Addr) (a : Addr), s.stk.toList = rest ++ [a] →
      ∃ t, exec (.ret z) s = .next t ∧ t = { s with pc := t.pc, stk := t.stk } ∧ t.stk.toList = rest ∧ t.pc = a) ∧
    (s.stk.toList = [] → StopsWith (.ret z) s .stackUnderflow)

/-- The core idles at a jump to itself: the step changes nothing but the ticked timers and the model's answer index, and the
core is idle again (70_reset_and_hazards.md R198; log 16). -/
def Obligations.IdleJumpChangesOnlyTheTimers : Prop :=
  ∀ s : State, s.stop = none → s.idle = true →
    ∃ t : State, step s = .next t ∧ t = { s with dt := t.dt, st := t.st, oracleIx := t.oracleIx } ∧ t.idle = true

/-! ## Loads, ALU, shifts, random (41_alu.md) -/

/-- load, add-imm, move, or, and, xor (R111 to R116): V[x] alone is written, so VF only when x is 0xF. -/
def Obligations.FlaglessResultsGoToVx : Prop :=
  ∀ (s : State) (x y : RegIdx) (nn : Byte),
    exec (.load x nn) s = .next { s with v := s.v.set x.val nn } ∧
    exec (.addImm x nn) s =
      .next { s with v := s.v.set x.val (BitVec.ofNat 8 (((s.reg x).toNat + nn.toNat) % 2 ^ 8)) } ∧
    exec (.move x y) s = .next { s with v := s.v.set x.val (s.reg y) } ∧
    exec (.or x y) s = .next { s with v := s.v.set x.val (s.reg x ||| s.reg y) } ∧
    exec (.and x y) s = .next { s with v := s.v.set x.val (s.reg x &&& s.reg y) } ∧
    exec (.xor x y) s = .next { s with v := s.v.set x.val (s.reg x ^^^ s.reg y) }

/-- add and sub (R117, R118): results mod 2^8, VF the carry or the not-borrow, written last. -/
def Obligations.AddAndSubtractSetVfToCarryOrNotBorrow : Prop :=
  ∀ (s : State) (x y : RegIdx) (a b : Nat), a = (s.reg x).toNat → b = (s.reg y).toNat →
    WritesResultAndFlag (.add x y) s x ((a + b) % 2 ^ 8) (if 256 ≤ a + b then 1 else 0) ∧
    WritesResultAndFlag (.sub x y) s x ((2 ^ 8 + a - b) % 2 ^ 8) (if b ≤ a then 1 else 0)

/-- subn: Vy - Vx mod 2^8, VF its not-borrow. R120 marks its reading of "no borrow" as derived from the sub row. -/
def Obligations.ReverseSubtractSetsVfToNotBorrow : Prop :=
  ∀ (s : State) (x y : RegIdx) (a b : Nat), a = (s.reg x).toNat → b = (s.reg y).toNat →
    WritesResultAndFlag (.subn x y) s x ((2 ^ 8 + b - a) % 2 ^ 8) (if a ≤ b then 1 else 0)

/-- shr and shl (R119, R121; 90_conflicts.md C5): VF is the bit shifted out, whatever y is. -/
def Obligations.ShiftsSetVfToTheBitShiftedOut : Prop :=
  ∀ (s : State) (x y : RegIdx) (a : Nat), a = (s.reg x).toNat →
    WritesResultAndFlag (.shr x y) s x (a / 2) (a % 2) ∧
    WritesResultAndFlag (.shl x y) s x (a * 2 % 2 ^ 8) (a / 128)

/-- rand (R122): V[x] is nn OR r, where r is the free byte the random source answers (60_exceptions.md R183; log 7); every bit of
nn is set in it. -/
def Obligations.RandOrsAFreeByte : Prop :=
  ∀ (s : State) (x : RegIdx) (nn : Byte), ∃ (r : Byte) (t : State), r = Config.randByte s.oracleIx ∧
    exec (.rand x nn) s = .next t ∧ t = { s with v := s.v.set x.val (nn ||| r), oracleIx := s.oracleIx + 1 } ∧
    t.reg x &&& nn = nn

/-! ## Index register and memory (42_index_memory.md, 20_memory.md) -/

/-- load-i, add-i, load-font-addr (R130 to R132): the new I, and nothing else. -/
def Obligations.IndexRegisterWrites : Prop :=
  ∀ (s : State) (x : RegIdx) (nnn : BitVec 12),
    exec (.loadI nnn) s = .next { s with i := nnn.setWidth 16 } ∧
    exec (.addI x) s = .next { s with i := BitVec.ofNat 16 ((s.i.toNat + (s.reg x).toNat) % 2 ^ 16) } ∧
    ∃ t, exec (.loadFontAddr x) s = .next t ∧ t = { s with i := t.i } ∧ t.i.toNat = 0x050 + 5 * (s.reg x).toNat

/-- store-bcd (R133): three decimal digits at I, I+1, I+2 and nothing else, or a stop with the lowest out-of-range address. -/
def Obligations.StoreBcdWritesThreeDigits : Prop :=
  ∀ (s : State) (x : RegIdx) (v : Nat), v = (s.reg x).toNat →
    (s.i.toNat + 2 < 4095 → ∃ t, exec (.storeBcd x) s = .next t ∧ t = { s with mem := t.mem } ∧
      (Memory.byteAt t.mem s.i.toNat).toNat = v / 100 ∧
      (Memory.byteAt t.mem (s.i.toNat + 1)).toNat = v / 10 % 10 ∧
      (Memory.byteAt t.mem (s.i.toNat + 2)).toNat = v % 10 ∧
      ∀ a, ¬(s.i.toNat ≤ a ∧ a < s.i.toNat + 3) → Memory.byteAt t.mem a = Memory.byteAt s.mem a) ∧
    (4095 ≤ s.i.toNat + 2 → ∃ a, StopsWith (.storeBcd x) s (.memoryOutOfRange a) ∧
      4095 ≤ a ∧ s.i.toNat ≤ a ∧ a ≤ s.i.toNat + 2 ∧ ∀ b, s.i.toNat ≤ b → b < a → b < 4095)

/-- store-regs (R134): V[0] to V[x] at I, ..., I+x and nothing else, or a stop. -/
def Obligations.StoreRegsWritesVZeroToVx : Prop :=
  ∀ (s : State) (x : RegIdx),
    (s.i.toNat + x.val < 4095 → ∃ t, exec (.storeRegs x) s = .next t ∧ t = { s with mem := t.mem } ∧
      (∀ r : RegIdx, r ≤ x → Memory.byteAt t.mem (s.i.toNat + r.val) = s.reg r) ∧
      ∀ a, ¬(s.i.toNat ≤ a ∧ a < s.i.toNat + (x.val + 1)) → Memory.byteAt t.mem a = Memory.byteAt s.mem a) ∧
    (4095 ≤ s.i.toNat + x.val → StopsWith (.storeRegs x) s (.memoryOutOfRange (max s.i.toNat 4095)))

/-- load-regs (R135): V[0] to V[x] from I, ..., I+x, the other registers kept, and nothing else, or a stop. -/
def Obligations.LoadRegsReadsVZeroToVx : Prop :=
  ∀ (s : State) (x : RegIdx),
    (s.i.toNat + x.val < 4095 → ∃ t, exec (.loadRegs x) s = .next t ∧ t = { s with v := t.v } ∧
      (∀ r : RegIdx, r ≤ x → t.reg r = Memory.byteAt s.mem (s.i.toNat + r.val)) ∧
      ∀ r : RegIdx, ¬r ≤ x → t.reg r = s.reg r) ∧
    (4095 ≤ s.i.toNat + x.val → StopsWith (.loadRegs x) s (.memoryOutOfRange (max s.i.toNat 4095)))

/-- store-regs and then load-regs at the same I and memory reproduce V[0] to V[x] (R135, which marks it as derived; 90_conflicts.md C7). -/
def Obligations.LoadRegsInvertsStoreRegs : Prop :=
  ∀ (s t u w : State) (x : RegIdx),
    s.i.toNat + x.val < 4095 → exec (.storeRegs x) s = .next t →
    u.mem = t.mem → u.i = s.i → exec (.loadRegs x) u = .next w →
    ∀ r : RegIdx, r ≤ x → w.reg r = s.reg r

/-- The range check before a multi-byte access finds the lowest out-of-range address, and none exactly when every address
exists (20_memory.md R66). -/
def Obligations.RangeCheckFindsTheLowestBadAddress : Prop :=
  ∀ base len a : Nat,
    (firstOutOfRange base len = none ↔ ∀ b, base ≤ b → b < base + len → b < 4095) ∧
    (firstOutOfRange base len = some a ↔
      base ≤ a ∧ a < base + len ∧ 4095 ≤ a ∧ ∀ b, base ≤ b → b < a → b < 4095)

/-- A read returns the most recent write to that address, or the reset value if there was none, and a write changes exactly one
byte (20_memory.md R64, R73). -/
def Obligations.ReadReturnsTheLastWrite : Prop :=
  (∀ (m : Memory) (a b : Nat) (v : Byte), a < 4095 →
    Memory.byteAt (Memory.write m a v) b = if b = a then v else Memory.byteAt m b) ∧
  ∀ a : Nat, Memory.byteAt State.reset.mem a =
    if 0x050 ≤ a ∧ a < 0x050 + 80 then Config.font (a - 0x050) else Config.initMem a

/-- A store is seen by the next fetch (20_memory.md R75, marked as derived; byte order log 14): after store-regs over the bytes at PC, the fetch reads the stored
registers. -/
def Obligations.StoreIsSeenByTheNextFetch : Prop :=
  ∀ (s t : State) (x r r' : RegIdx),
    s.i.toNat + x.val < 4095 → exec (.storeRegs x) s = .next t →
    s.pc.toNat = s.i.toNat + r.val → s.pc.toNat + 1 = s.i.toNat + r'.val → r' ≤ x →
    t.fetch = .ok (s.reg r ++ s.reg r' : Opcode)

/-- Memories in canonical form that list the same bytes are equal data (log 2). -/
def Obligations.CanonicalMemoriesAreEqualData : Prop :=
  ∀ m m' : Memory, Memory.wf m = true → Memory.wf m' = true →
    (∀ a, Memory.lookup m a = Memory.lookup m' a) → m = m'

/-! ## Display (43_display.md) -/

/-- Compose (R140): XOR at one pixel, the literal collision rule, every other pixel unchanged. -/
def Obligations.ComposeXorsOnePixel : Prop :=
  ∀ (fb : Framebuffer) (bit : Bool) (cx px : Fin 64) (cy py : Fin 32),
    (compose bit cx cy fb).2 = decide (pixel fb cx cy = bit) ∧
    pixel (compose bit cx cy fb).1 cx cy = xor (pixel fb cx cy) bit ∧
    ((px, py) ≠ (cx, cy) → pixel (compose bit cx cy fb).1 px py = pixel fb px py)

/-- clear (R141): every pixel off, one present event with that framebuffer, nothing else. -/
def Obligations.ClearTurnsEveryPixelOff : Prop :=
  ∀ (s : State) (z : Nibble), ∃ t, exec (.clear z) s = .next t ∧
    t = { s with fb := t.fb, presents := s.presents ++ [t.fb] } ∧ ∀ cx cy, pixel t.fb cx cy = false

/-- draw (R142): the origin wraps once; a pixel of the sprite's rectangle that is on the display is XORed with its bit, every
other pixel is kept; VF is 1 exactly when some composed pixel equalled its bit before; one present event follows; nothing else
changes. A sprite byte out of range stops with nothing changed. -/
def Obligations.DrawClipsWrapsAndCollides : Prop :=
  ∀ (s : State) (x y : RegIdx) (n : Nibble) (ox oy : Nat),
    ox = (s.reg x).toNat % 64 → oy = (s.reg y).toNat % 32 →
    (n.toNat = 0 ∨ s.i.toNat + n.toNat - 1 < 4095 →
      ∃ t, exec (.draw x y n) s = .next t ∧
        (∀ cx cy, inSprite ox oy n.toNat cx cy →
          pixel t.fb cx cy = xor (pixel s.fb cx cy) (spriteBit s.mem s.i.toNat ox oy cx cy)) ∧
        (∀ cx cy, ¬inSprite ox oy n.toNat cx cy → pixel t.fb cx cy = pixel s.fb cx cy) ∧
        ((∃ cx cy, inSprite ox oy n.toNat cx cy ∧ pixel s.fb cx cy = spriteBit s.mem s.i.toNat ox oy cx cy) →
          t.reg 0xF = 1) ∧
        ((¬∃ cx cy, inSprite ox oy n.toNat cx cy ∧ pixel s.fb cx cy = spriteBit s.mem s.i.toNat ox oy cx cy) →
          t.reg 0xF = 0) ∧
        (∀ r, r ≠ 0xF → t.reg r = s.reg r) ∧
        t = { s with v := t.v, fb := t.fb, presents := s.presents ++ [t.fb] }) ∧
    (0 < n.toNat → 4095 ≤ s.i.toNat + n.toNat - 1 →
      StopsWith (.draw x y n) s (.memoryOutOfRange (max s.i.toNat 4095)))

/-- VF after a draw that completes is 1 exactly when some unclipped pixel of the sprite's rectangle is off afterwards (R144(b), marked
as derived). -/
def Obligations.DrawCollidesWhenAPixelEndsOff : Prop :=
  ∀ (s t : State) (x y : RegIdx) (n : Nibble) (ox oy : Nat),
    ox = (s.reg x).toNat % 64 → oy = (s.reg y).toNat % 32 → s.stop = none →
    exec (.draw x y n) s = .next t → t.stop = none →
    (t.reg 0xF = 1 ∨ t.reg 0xF = 0) ∧
    (t.reg 0xF = 1 ↔ ∃ cx cy, inSprite ox oy n.toNat cx cy ∧ pixel t.fb cx cy = false)

/-- A second identical draw restores the framebuffer (R144(c), marked as derived). -/
def Obligations.DrawTwiceRestoresTheFramebuffer : Prop :=
  ∀ (s t u w : State) (x y : RegIdx) (n : Nibble),
    exec (.draw x y n) s = .next t →
    u.fb = t.fb → u.i = s.i → u.mem = s.mem → u.reg x = s.reg x → u.reg y = s.reg y →
    exec (.draw x y n) u = .next w → w.fb = s.fb

/-- The output log (60_exceptions.md R184): one event at startup; one event, a copy of FB, at each clear and each draw that does
not stop; no other instruction and no tick adds or removes any. -/
def Obligations.PresentLogIsAppendOnly : Prop :=
  State.reset.presents = [State.reset.fb] ∧
  (∀ s : State, s.tick.presents = s.presents) ∧
  ∀ (i : Instr) (s t : State), s.stop = none → exec i s = .next t →
    (writesDisplay i → t.stop = none → t.presents = s.presents ++ [t.fb]) ∧
    (¬writesDisplay i ∨ t.stop ≠ none → t.presents = s.presents)

/-! ## Timers and input (44_timers_input.md) -/

/-- load-delay, store-delay, store-sound (R152, R154, R155). -/
def Obligations.TimerInstructions : Prop :=
  ∀ (s : State) (x : RegIdx),
    exec (.loadDelay x) s = .next { s with v := s.v.set x.val s.dt } ∧
    exec (.storeDelay x) s = .next { s with dt := s.reg x } ∧
    exec (.storeSound x) s = .next { s with st := s.reg x }

/-- The sound output is on exactly while ST is not 0 (60_exceptions.md R179, PRESUMED by the spec: GK6, log 13): after a
store-sound, as long as fewer ticks have passed than the value stored. -/
def Obligations.SoundIsOnWhileTheSoundTimerRuns : Prop :=
  ∀ (s t : State) (x : RegIdx) (n : Nat),
    exec (.storeSound x) s = .next t → ((State.tick^[n] t).soundOn = true ↔ n < (s.reg x).toNat)

/-- skip-key-pressed and skip-key-not-pressed (R150, R151): a value below 16 is a key, and the free answer `down` of the input
source decides the skip; 16 and above stop (60_exceptions.md R182). -/
def Obligations.KeySkipsAskTheInputSource : Prop :=
  ∀ (s : State) (x : RegIdx),
    (∀ h : (s.reg x).toNat < 16, ∃ down : Bool, down = Config.keyDown s.oracleIx ⟨(s.reg x).toNat, h⟩ ∧
      exec (.skipKeyPressed x) s =
        .next { s with pc := if down then s.pc + 2 else s.pc, oracleIx := s.oracleIx + 1 } ∧
      exec (.skipKeyNotPressed x) s =
        .next { s with pc := if down then s.pc else s.pc + 2, oracleIx := s.oracleIx + 1 }) ∧
    (16 ≤ (s.reg x).toNat →
      StopsWith (.skipKeyPressed x) s (.keyOutOfRange (s.reg x)) ∧
      StopsWith (.skipKeyNotPressed x) s (.keyOutOfRange (s.reg x)))

/-- wait-key (R153) completes its poll whatever the input source answers: with no key PC goes back by 2 and V[x] keeps its value;
with a key, V[x] is its number. The answer is free (60_exceptions.md R181; log 8). -/
def Obligations.WaitKeyPollsOnce : Prop :=
  ∀ (s : State) (x : RegIdx), ∃ (answer : Option Key) (t : State), answer = Config.pressedKey s.oracleIx ∧
    exec (.waitKey x) s = .next t ∧
    (answer = none → t = { s with pc := s.pc - 2, oracleIx := s.oracleIx + 1 }) ∧
    ∀ k, answer = some k → t = { s with v := s.v.set x.val (BitVec.ofNat 8 k.val), oracleIx := s.oracleIx + 1 }

/-- wait-key re-executes itself (70_reset_and_hazards.md R196): in a step at a wait-key, the answer none of the poll leaves every
register, PC, memory, the stack and the framebuffer as they were, and the same opcode is fetched again; the answer k sets V[x] to
k, with PC + 2, and nothing else. The timers are the ticker's, and `oracleIx` and the index of the answer, one past that of the
step's Ticks, are the model's own (logs 6, 7 and 8). -/
def Obligations.WaitKeyIsFetchedAgain : Prop :=
  ∀ (s t : State) (op : Opcode) (x : RegIdx),
    s.fetch = .ok op → decode op = .waitKey x → step s = .next t →
    ∃ answer : Option Key, answer = Config.pressedKey (s.oracleIx + 1) ∧
      (answer = none → t = { s with dt := t.dt, st := t.st, oracleIx := t.oracleIx } ∧ t.fetch = .ok op) ∧
      ∀ k, answer = some k →
        t = { s with v := s.v.set x.val (BitVec.ofNat 8 k.val), pc := s.pc + 2, dt := t.dt, st := t.st, oracleIx := t.oracleIx }

/-! ## Assembler syntax (30_encoding.md R94) -/

/-- Every instruction but the no-op has a spelling, and assembling the line, or its text, gives the instruction back with its
unwritten ignored nibble 0; the no-op has no spelling (R94, R95; the line's form is log 19). -/
def Obligations.AssemblingTheSpellingGivesTheInstruction : Prop :=
  ∀ i : Instr, (∃ op, i = .noop op ∧ disassemble i = none) ∨
    ∃ l, disassemble i = some l ∧ assemble l = some i.canonical ∧ assembleText l.text = some i.canonical

/-- The bits an operation ignores have no effect (R85, R86; 41_alu.md R119, R121): an instruction with its ignored nibble 0 does the
same, and stops exactly when the other stops, with the same cause and address, so that only the opcode in the record can differ;
shr and shl do the same for every y. -/
def Obligations.IgnoredBitsHaveNoEffect : Prop :=
  (∀ (i : Instr) (s t : State), s.stop = none → exec i s = .next t →
    ∃ t', exec i.canonical s = .next t' ∧ t' = { t with stop := t'.stop } ∧
      t'.stop.map (fun r => (r.cause, r.fetchPc)) = t.stop.map (fun r => (r.cause, r.fetchPc))) ∧
  ∀ (s : State) (x y y' : RegIdx),
    exec (.shr x y) s = exec (.shr x y') s ∧ exec (.shl x y) s = exec (.shl x y') s
end

