-- ==== Sys2Proof/Laws/Assembly.lean ====
section
/-! SUPPORT. Reading the text of an operand, of operands and of a line gives them back (30_encoding.md R94). -/

namespace Sys2Proof

theorem hexValue_hexDigit (n : Nibble) : hexValue (hexDigit n) = some n := by revert n; decide

theorem hexDigit_ne_comma (n : Nibble) : hexDigit n ≠ ',' := by revert n; decide

theorem byte_of_nibbles (nn : Byte) : (nn.extractLsb' 4 4 ++ nn.extractLsb' 0 4 : BitVec 8) = nn := by revert nn; decide

theorem addr_of_nibbles (nn : BitVec 12) : ((nn.extractLsb' 8 4 ++ nn.extractLsb' 4 4) ++ nn.extractLsb' 0 4 : BitVec 12) = nn := by
  apply BitVec.eq_of_getLsbD_eq
  intro i hi
  simp only [BitVec.getLsbD_append, BitVec.getLsbD_extractLsb']
  split <;> (try split) <;> simp <;> (first | omega | (rw [decide_eq_true (by omega), Bool.true_and]; congr 1; omega))

theorem readOperand_height (n : Nibble) : readOperand (AsmOperand.height n).text = some (.height n) := by revert n; decide

theorem comma_notMem_height (n : Nibble) : ',' ∉ (AsmOperand.height n).text := by revert n; decide

theorem readOperand_text (o : AsmOperand) : readOperand o.text = some o := by
  cases o
  case reg x => revert x; decide
  case byte nn =>
    exact (show readOperand (AsmOperand.byte nn).text =
      ((hexValue _).bind fun a => (hexValue _).map fun b => .byte (a ++ b)) from rfl).trans (by rw [hexValue_hexDigit, hexValue_hexDigit]; simp [byte_of_nibbles])
  case addr nn =>
    exact (show readOperand (AsmOperand.addr nn).text = ((hexValue _).bind fun a => (hexValue _).bind fun b =>
      (hexValue _).map fun c => .addr (a ++ b ++ c)) from rfl).trans (by rw [hexValue_hexDigit, hexValue_hexDigit, hexValue_hexDigit]; simp [addr_of_nibbles])
  case height n => exact readOperand_height n
  all_goals rfl

theorem comma_notMem_text (o : AsmOperand) : ',' ∉ o.text := by
  cases o
  case reg x => revert x; decide
  case byte nn => simp [AsmOperand.text]; exact ⟨(hexDigit_ne_comma _).symm, (hexDigit_ne_comma _).symm⟩
  case addr nn => simp [AsmOperand.text]; exact ⟨(hexDigit_ne_comma _).symm, (hexDigit_ne_comma _).symm, (hexDigit_ne_comma _).symm⟩
  case height n => exact comma_notMem_height n
  all_goals decide

theorem readOperands_last (cur l : List Char) (h : ',' ∉ l) : readOperands cur l =
    (readOperand (cur.reverse ++ l)).map fun o => [o] := by
  induction l generalizing cur with
  | nil => simp [readOperands]
  | cons c l ih =>
    simp at h
    rw [readOperands, if_neg (fun e => h.1 e.symm), ih _ h.2]; simp

theorem readOperands_comma (cur l m : List Char) (h : ',' ∉ l) : readOperands cur (l ++ ',' :: m) =
    (readOperand (cur.reverse ++ l)).bind fun o => (readOperands [] m).map fun os => o :: os := by
  induction l generalizing cur with
  | nil => simp [readOperands]
  | cons c l ih =>
    simp at h
    rw [List.cons_append, readOperands, if_neg (fun e => h.1 e.symm), ih _ h.2]; simp

theorem readOperands_operandsText (os : List AsmOperand) (h : os ≠ []) : readOperands [] (operandsText os) = some os := by
  induction os with
  | nil => exact absurd rfl h
  | cons o os ih =>
    cases os with
    | nil => rw [operandsText, readOperands_last _ _ (comma_notMem_text o)]; simp [readOperand_text]
    | cons p os => rw [operandsText, readOperands_comma _ _ _ (comma_notMem_text o), ih (by simp)]; simp [readOperand_text]; simp

theorem splitAtChar_append (c : Char) (l m : List Char) (h : c ∉ l) : splitAtChar c (l ++ c :: m) = (l, some m) := by
  induction l with
  | nil => simp [splitAtChar]
  | cons d l ih => simp at h; rw [List.cons_append, splitAtChar, if_neg (fun e => h.1 e.symm), ih h.2]

/-- Reading a line's text gives the line, when its name has no space in it. -/
theorem readLine_text (l : AsmLine) (h : ' ' ∉ l.name.toList) : readLine l.text = some l := by
  obtain ⟨n, os⟩ := l
  cases os with
  | nil => 
    have : ∀ l : List Char, ' ' ∉ l → splitAtChar ' ' l = (l, none) := by
      intro l; induction l with
      | nil => intro _; rfl
      | cons d l ih => intro h; simp at h; rw [splitAtChar, if_neg (fun e => h.1 e.symm), ih h.2]
    simp [AsmLine.text, readLine, this _ h]
  | cons o os =>
    have e : (AsmLine.text ⟨n, o :: os⟩).toList = n.toList ++ ' ' :: operandsText (o :: os) := by
      simp [AsmLine.text]
    unfold readLine
    rw [e, splitAtChar_append _ _ _ h]
    simp [readOperands_operandsText]

end Sys2Proof
end

