-- ==== Sys2Proof/Laws/Config.lean ====
section
/-! SUPPORT. The fixed parameters as numbers, for simp and omega. -/

namespace Sys2Proof.Config

@[simp] theorem memSize_eq : memSize = 4095 := rfl
@[simp] theorem stackDepth_eq : stackDepth = 15 := rfl
@[simp] theorem width_eq : width = 64 := rfl
@[simp] theorem height_eq : height = 32 := rfl
@[simp] theorem fontBase_eq : fontBase = 80 := rfl
@[simp] theorem fontGlyphBytes_eq : fontGlyphBytes = 5 := rfl
@[simp] theorem fontLen_eq : fontLen = 80 := rfl
@[simp] theorem progBase_eq : progBase = 512 := rfl
@[simp] theorem maxProgramLen_eq : maxProgramLen = 3583 := rfl
@[simp] theorem numKeys_eq : numKeys = 16 := rfl

end Sys2Proof.Config
end

