-- ==== Sys2Proof/Laws/Decode.lean ====
section
/-! SUPPORT. The fields of an opcode put together from its parts, and an opcode put together from its fields. -/

namespace Sys2Proof

variable (c a b d : Nibble) (nn : Byte) (nnn : BitVec 12) (op : Opcode)

/-! ## Bits of an opcode built from its parts -/

theorem getLsbD_fromNibbles (i : Nat) : (fromNibbles c a b d).getLsbD i =
    if i < 4 then d.getLsbD i else if i < 8 then b.getLsbD (i - 4) else if i < 12 then a.getLsbD (i - 8)
    else c.getLsbD (i - 12) := by
  have h1 := BitVec.getLsbD_append (x := c ++ a ++ b) (y := d) (i := i)
  have h2 := BitVec.getLsbD_append (x := c ++ a) (y := b) (i := i - 4)
  have h3 := BitVec.getLsbD_append (x := c) (y := a) (i := i - 4 - 4)
  refine h1.trans ?_
  rw [h2, h3]
  have e1 : i - 4 - 4 = i - 8 := by omega
  have e2 : i - 4 - 4 - 4 = i - 12 := by omega
  rw [e2, e1]
  split_ifs <;> first | rfl | omega

theorem getLsbD_fromByte (i : Nat) : (fromByte c a nn).getLsbD i =
    if i < 8 then nn.getLsbD i else if i < 12 then a.getLsbD (i - 8) else c.getLsbD (i - 12) := by
  have h1 := BitVec.getLsbD_append (x := c ++ a) (y := nn) (i := i)
  have h2 := BitVec.getLsbD_append (x := c) (y := a) (i := i - 8)
  refine h1.trans ?_
  rw [h2]
  have e : i - 8 - 4 = i - 12 := by omega
  rw [e]
  split_ifs <;> first | rfl | omega

theorem getLsbD_fromAddr (i : Nat) : (fromAddr c nnn).getLsbD i =
    if i < 12 then nnn.getLsbD i else c.getLsbD (i - 12) :=
  BitVec.getLsbD_append (x := c) (y := nnn) (i := i)

/-! ## Fields of an opcode built from its parts -/

@[simp] theorem classOf_fromNibbles : classOf (fromNibbles c a b d) = c := by
  apply BitVec.eq_of_getLsbD_eq
  intro i hi
  simp only [classOf, BitVec.getLsbD_extractLsb', getLsbD_fromNibbles]
  rw [if_neg (by omega), if_neg (by omega), if_neg (by omega), Nat.add_sub_cancel_left]
  simp [hi]

@[simp] theorem xOf_fromNibbles : xOf (fromNibbles c a b d) = a.toFin := by
  refine congrArg BitVec.toFin (BitVec.eq_of_getLsbD_eq fun i hi => ?_)
  simp only [BitVec.getLsbD_extractLsb', getLsbD_fromNibbles]
  rw [if_neg (by omega), if_neg (by omega), if_pos (by omega), Nat.add_sub_cancel_left]
  simp [hi]

@[simp] theorem yOf_fromNibbles : yOf (fromNibbles c a b d) = b.toFin := by
  refine congrArg BitVec.toFin (BitVec.eq_of_getLsbD_eq fun i hi => ?_)
  simp only [BitVec.getLsbD_extractLsb', getLsbD_fromNibbles]
  rw [if_neg (by omega), if_pos (by omega), Nat.add_sub_cancel_left]
  simp [hi]

@[simp] theorem nOf_fromNibbles : nOf (fromNibbles c a b d) = d := by
  apply BitVec.eq_of_getLsbD_eq
  intro i hi
  simp only [nOf, BitVec.getLsbD_extractLsb', getLsbD_fromNibbles]
  rw [if_pos (by omega), Nat.zero_add]
  simp [hi]

@[simp] theorem classOf_fromByte : classOf (fromByte c a nn) = c := by
  apply BitVec.eq_of_getLsbD_eq
  intro i hi
  simp only [classOf, BitVec.getLsbD_extractLsb', getLsbD_fromByte]
  rw [if_neg (by omega), if_neg (by omega), Nat.add_sub_cancel_left]
  simp [hi]

@[simp] theorem highNibbleOf_fromByte : highNibbleOf (fromByte c a nn) = a := by
  apply BitVec.eq_of_getLsbD_eq
  intro i hi
  simp only [highNibbleOf, BitVec.getLsbD_extractLsb', getLsbD_fromByte]
  rw [if_neg (by omega), if_pos (by omega), Nat.add_sub_cancel_left]
  simp [hi]

@[simp] theorem xOf_fromByte : xOf (fromByte c a nn) = a.toFin :=
  congrArg BitVec.toFin (highNibbleOf_fromByte c a nn)

@[simp] theorem nnOf_fromByte : nnOf (fromByte c a nn) = nn := by
  apply BitVec.eq_of_getLsbD_eq
  intro i hi
  simp only [nnOf, BitVec.getLsbD_extractLsb', getLsbD_fromByte]
  rw [if_pos (by omega), Nat.zero_add]
  simp [hi]

@[simp] theorem classOf_fromAddr : classOf (fromAddr c nnn) = c := by
  apply BitVec.eq_of_getLsbD_eq
  intro i hi
  simp only [classOf, BitVec.getLsbD_extractLsb', getLsbD_fromAddr]
  rw [if_neg (by omega), Nat.add_sub_cancel_left]
  simp [hi]

@[simp] theorem nnnOf_fromAddr : nnnOf (fromAddr c nnn) = nnn := by
  apply BitVec.eq_of_getLsbD_eq
  intro i hi
  simp only [nnnOf, BitVec.getLsbD_extractLsb', getLsbD_fromAddr]
  rw [if_pos (by omega), Nat.zero_add]
  simp [hi]

@[simp] theorem toFin_regField (x : RegIdx) : (regField x).toFin = x := rfl

/-! ## An opcode from its own fields -/

theorem fromNibbles_fields :
    fromNibbles (classOf op) (regField (xOf op)) (regField (yOf op)) (nOf op) = op := by
  apply BitVec.eq_of_getLsbD_eq
  intro i hi
  simp only [getLsbD_fromNibbles, classOf, xOf, yOf, nOf, regField, BitVec.ofFin_toFin, BitVec.getLsbD_extractLsb']
  split_ifs with h1 h2 h3
  · simp [h1]
  · rw [decide_eq_true (by omega), Bool.true_and]; congr 1; omega
  · rw [decide_eq_true (by omega), Bool.true_and]; congr 1; omega
  · rw [decide_eq_true (by omega), Bool.true_and]; congr 1; omega

theorem fromByte_fields : fromByte (classOf op) (highNibbleOf op) (nnOf op) = op := by
  apply BitVec.eq_of_getLsbD_eq
  intro i hi
  simp only [getLsbD_fromByte, classOf, highNibbleOf, nnOf, BitVec.getLsbD_extractLsb']
  split_ifs with h1 h2
  · simp [h1]
  · rw [decide_eq_true (by omega), Bool.true_and]; congr 1; omega
  · rw [decide_eq_true (by omega), Bool.true_and]; congr 1; omega

theorem regField_xOf : regField (xOf op) = highNibbleOf op := rfl

theorem fromAddr_fields : fromAddr (classOf op) (nnnOf op) = op := by
  apply BitVec.eq_of_getLsbD_eq
  intro i hi
  simp only [getLsbD_fromAddr, classOf, nnnOf, BitVec.getLsbD_extractLsb']
  split_ifs with h1
  · simp [h1]
  · rw [decide_eq_true (by omega), Bool.true_and]; congr 1; omega

/-- The bytes of an opcode put it back together (20_memory.md R68). -/
theorem opcodeOfBytes_bytes : opcodeOfBytes (highByteOf op) (lowByteOf op) = op := by
  apply BitVec.eq_of_getLsbD_eq
  intro i hi
  refine (BitVec.getLsbD_append (x := highByteOf op) (y := lowByteOf op) (i := i)).trans ?_
  simp only [highByteOf, lowByteOf, BitVec.getLsbD_extractLsb']
  split_ifs with h
  · simp [h]
  · rw [decide_eq_true (by omega), Bool.true_and]; congr 1; omega

end Sys2Proof
end

