-- ==== Sys2Proof/Laws/Display.lean ====
section
/-! SUPPORT. Pixels: a read after a write, and what one composition, one cursor position and one row do to a pixel. -/

namespace Sys2Proof.Machine

theorem pixel_setPixel (fb : Framebuffer) (cx px : Fin 64) (cy py : Fin 32) (b : Bool) :
    pixel (setPixel fb cx cy b) px py = if px = cx ∧ py = cy then b else pixel fb px py := by
  unfold pixel setPixel
  by_cases hy : py = cy
  · subst hy
    by_cases hx : px = cx
    · subst hx; simp
    · have : cx.val ≠ px.val := fun e => hx (Fin.ext e.symm)
      simp [hx, this]
  · have : cy.val ≠ py.val := fun e => hy (Fin.ext e.symm)
    simp [hy, this]

theorem pixel_blankFramebuffer (px : Fin 64) (py : Fin 32) : pixel blankFramebuffer px py = false := by
  simp [pixel, blankFramebuffer]

/-- A framebuffer is its pixels. -/
theorem framebuffer_ext {f g : Framebuffer} (h : ∀ px py, pixel f px py = pixel g px py) : f = g := by
  apply Vector.ext
  intro cy hy
  apply Vector.ext
  intro cx hx
  exact h ⟨cx, hx⟩ ⟨cy, hy⟩

/-- What one cursor position does to a pixel: it is composed with the bit when the cursor is on it (43_display.md R140, R142). -/
theorem pixel_drawPixel (bit : Bool) (cx cy : Nat) (acc : Framebuffer × Bool) (px : Fin 64) (py : Fin 32) :
    pixel (drawPixel bit cx cy acc).1 px py = (pixel acc.1 px py ^^ (decide (px.val = cx ∧ py.val = cy) && bit)) := by
  unfold drawPixel
  split
  next h =>
    simp only [compose, pixel_setPixel, Fin.ext_iff]
    by_cases hp : px.val = cx ∧ py.val = cy
    · have hx : px = ⟨cx, h.1⟩ := Fin.ext hp.1
      have hy : py = ⟨cy, h.2⟩ := Fin.ext hp.2
      subst hx; subst hy
      simp
    · simp [hp]
  next h =>
    have : ¬(px.val = cx ∧ py.val = cy) := fun e => h ⟨e.1 ▸ px.isLt, e.2 ▸ py.isLt⟩
    simp [this]

/-- A cursor position collides when it is on the display and leaves its pixel off (43_display.md R140). -/
theorem drawPixel_collides (bit : Bool) (cx cy : Nat) (acc : Framebuffer × Bool) :
    (drawPixel bit cx cy acc).2 = true ↔
      acc.2 = true ∨ ∃ px : Fin 64, ∃ py : Fin 32, px.val = cx ∧ py.val = cy ∧
        pixel (drawPixel bit cx cy acc).1 px py = false := by
  by_cases h : cx < 64 ∧ cy < 32
  · have hp : (∃ px : Fin 64, ∃ py : Fin 32, px.val = cx ∧ py.val = cy ∧
        pixel (drawPixel bit cx cy acc).1 px py = false) ↔ (pixel acc.1 ⟨cx, h.1⟩ ⟨cy, h.2⟩ == bit) = true := by
      constructor
      · rintro ⟨px, py, rfl, rfl, e⟩
        rw [pixel_drawPixel] at e
        revert e
        cases pixel acc.1 px py <;> cases bit <;> simp
      · intro e
        refine ⟨⟨cx, h.1⟩, ⟨cy, h.2⟩, rfl, rfl, ?_⟩
        rw [pixel_drawPixel]
        revert e
        cases pixel acc.1 ⟨cx, h.1⟩ ⟨cy, h.2⟩ <;> cases bit <;> simp
    rw [hp]
    unfold drawPixel
    rw [dif_pos h]
    simp [compose]
  · have hp : ¬∃ px : Fin 64, ∃ py : Fin 32, px.val = cx ∧ py.val = cy ∧
        pixel (drawPixel bit cx cy acc).1 px py = false := by
      rintro ⟨px, py, rfl, rfl, -⟩
      exact h ⟨px.isLt, py.isLt⟩
    unfold drawPixel at hp ⊢
    rw [dif_neg h] at hp ⊢
    exact ⟨.inl, fun e => e.elim id (fun e => absurd e hp)⟩

/-! ## One row -/

/-- The first `k` bits of a row. -/
def drawBits (row : Byte) (ox cy k : Nat) (acc : Framebuffer × Bool) : Framebuffer × Bool :=
  (List.range k).foldl (fun acc b => drawPixel (row.getLsbD (7 - b)) (ox + b) cy acc) acc

theorem drawBits_succ (row : Byte) (ox cy k : Nat) (acc : Framebuffer × Bool) :
    drawBits row ox cy (k + 1) acc = drawPixel (row.getLsbD (7 - k)) (ox + k) cy (drawBits row ox cy k acc) := by
  simp [drawBits, List.range_succ]

theorem drawRow_eq_drawBits (row : Byte) (ox cy : Nat) (acc : Framebuffer × Bool) :
    drawRow row ox cy acc = drawBits row ox cy 8 acc := rfl

theorem pixel_drawBits (row : Byte) (ox cy k : Nat) (acc : Framebuffer × Bool) (px : Fin 64) (py : Fin 32) :
    pixel (drawBits row ox cy k acc).1 px py =
      (pixel acc.1 px py ^^ (decide (py.val = cy ∧ ox ≤ px.val ∧ px.val < ox + k) && row.getLsbD (7 - (px.val - ox)))) := by
  induction k with
  | zero =>
    rw [decide_eq_false (p := py.val = cy ∧ _) (by omega), Bool.false_and, Bool.xor_false]
    rfl
  | succ k ih =>
    rw [drawBits_succ, pixel_drawPixel, ih]
    by_cases hk : px.val = ox + k ∧ py.val = cy
    · rw [decide_eq_false (by omega), decide_eq_true (by omega), decide_eq_true (by omega)]
      have : px.val - ox = k := by omega
      simp [this]
    · rw [decide_eq_false (p := px.val = ox + k ∧ py.val = cy) hk]
      rw [show decide (py.val = cy ∧ ox ≤ px.val ∧ px.val < ox + k) =
        decide (py.val = cy ∧ ox ≤ px.val ∧ px.val < ox + (k + 1)) from decide_eq_decide.mpr (by omega)]
      simp

theorem drawBits_collides (row : Byte) (ox cy k : Nat) (acc : Framebuffer × Bool) :
    (drawBits row ox cy k acc).2 = true ↔
      acc.2 = true ∨ ∃ px : Fin 64, ∃ py : Fin 32, (py.val = cy ∧ ox ≤ px.val ∧ px.val < ox + k) ∧
        pixel (drawBits row ox cy k acc).1 px py = false := by
  induction k with
  | zero =>
    have : ¬∃ px : Fin 64, ∃ py : Fin 32, (py.val = cy ∧ ox ≤ px.val ∧ px.val < ox + 0) ∧
        pixel (drawBits row ox cy 0 acc).1 px py = false := by
      rintro ⟨px, py, h, -⟩; omega
    exact ⟨.inl, fun e => e.elim id (fun e => absurd e this)⟩
  | succ k ih =>
    rw [drawBits_succ, drawPixel_collides, ih]
    constructor
    · rintro ((h | ⟨px, py, h, e⟩) | ⟨px, py, hx, hy, e⟩)
      · exact .inl h
      · refine .inr ⟨px, py, ⟨h.1, h.2.1, by omega⟩, ?_⟩
        rw [pixel_drawPixel, decide_eq_false (by omega), Bool.false_and, Bool.xor_false, e]
      · exact .inr ⟨px, py, ⟨hy, by omega, by omega⟩, e⟩
    · rintro (h | ⟨px, py, h, e⟩)
      · exact .inl (.inl h)
      · by_cases hk : px.val = ox + k
        · exact .inr ⟨px, py, hk, h.1, e⟩
        · refine .inl (.inr ⟨px, py, ⟨h.1, h.2.1, by omega⟩, ?_⟩)
          rwa [pixel_drawPixel, decide_eq_false (by omega), Bool.false_and, Bool.xor_false] at e

/-! ## The sprite -/

/-- What the rows of a sprite do to a pixel: composed once when it is in the rectangle, untouched otherwise
(43_display.md R142). -/
theorem pixel_drawSprite (rows : List Byte) (ox oy : Nat) (acc : Framebuffer × Bool) (px : Fin 64) (py : Fin 32) :
    pixel (drawSprite rows ox oy acc).1 px py =
      (pixel acc.1 px py ^^ (decide (ox ≤ px.val ∧ px.val < ox + 8 ∧ oy ≤ py.val ∧ py.val < oy + rows.length) &&
        (rows.getD (py.val - oy) 0).getLsbD (7 - (px.val - ox)))) := by
  induction rows generalizing oy acc with
  | nil =>
    simp only [drawSprite, List.length_nil]
    rw [decide_eq_false (by omega), Bool.false_and, Bool.xor_false]
  | cons row rows ih =>
    rw [drawSprite, ih, drawRow_eq_drawBits, pixel_drawBits]
    simp only [List.length_cons]
    by_cases hy : py.val = oy
    · rw [decide_eq_false (p := ox ≤ px.val ∧ px.val < ox + 8 ∧ oy + 1 ≤ py.val ∧ _) (by omega)]
      have : py.val - oy = 0 := by omega
      rw [this, show decide (py.val = oy ∧ ox ≤ px.val ∧ px.val < ox + 8) =
        decide (ox ≤ px.val ∧ px.val < ox + 8 ∧ oy ≤ py.val ∧ py.val < oy + (rows.length + 1)) from
        decide_eq_decide.mpr (by omega)]
      simp
    · rw [decide_eq_false (p := py.val = oy ∧ _) (by omega)]
      by_cases hlt : oy < py.val
      · have : py.val - oy = (py.val - (oy + 1)) + 1 := by omega
        rw [this, List.getD_cons_succ, show
          decide (ox ≤ px.val ∧ px.val < ox + 8 ∧ oy + 1 ≤ py.val ∧ py.val < oy + 1 + rows.length) =
          decide (ox ≤ px.val ∧ px.val < ox + 8 ∧ oy ≤ py.val ∧ py.val < oy + (rows.length + 1)) from
          decide_eq_decide.mpr (by omega)]
        simp
      · rw [decide_eq_false (by omega), decide_eq_false (by omega)]
        simp

/-- The collision flag of a sprite: some pixel of its rectangle on the display ends off (43_display.md R140, R142). -/
theorem drawSprite_collides (rows : List Byte) (ox oy : Nat) (acc : Framebuffer × Bool) :
    (drawSprite rows ox oy acc).2 = true ↔
      acc.2 = true ∨ ∃ px : Fin 64, ∃ py : Fin 32,
        (ox ≤ px.val ∧ px.val < ox + 8 ∧ oy ≤ py.val ∧ py.val < oy + rows.length) ∧
        pixel (drawSprite rows ox oy acc).1 px py = false := by
  induction rows generalizing oy acc with
  | nil =>
    simp only [drawSprite, List.length_nil]
    exact ⟨.inl, fun h => h.elim id (by rintro ⟨px, py, h, -⟩; omega)⟩
  | cons row rows ih =>
    rw [drawSprite, ih, drawRow_eq_drawBits, drawBits_collides]
    simp only [List.length_cons]
    constructor
    · rintro ((h | ⟨px, py, h, e⟩) | ⟨px, py, h, e⟩)
      · exact .inl h
      · refine .inr ⟨px, py, ⟨h.2.1, h.2.2, by omega, by omega⟩, ?_⟩
        rw [pixel_drawSprite, decide_eq_false (by omega), Bool.false_and, Bool.xor_false, e]
      · exact .inr ⟨px, py, ⟨h.1, h.2.1, by omega, by omega⟩, e⟩
    · rintro (h | ⟨px, py, h, e⟩)
      · exact .inl (.inl h)
      · by_cases hy : py.val = oy
        · refine .inl (.inr ⟨px, py, ⟨hy, h.1, h.2.1⟩, ?_⟩)
          rwa [pixel_drawSprite, decide_eq_false (by omega), Bool.false_and, Bool.xor_false] at e
        · exact .inr ⟨px, py, ⟨h.1, h.2.1, by omega, by omega⟩, e⟩

end Sys2Proof.Machine
end

