-- ==== Sys2Proof/Laws/Flags.lean ====
section
/-! SUPPORT. Flags as numbers: what VF's flag byte, the carry, the not-borrow and the shifted-out bits are. -/

namespace Sys2Proof.Machine

@[simp] theorem flagByte_toNat (c : Bool) : (flagByte c).toNat = c.toNat := by cases c <;> rfl

@[simp] theorem carryOf_toNat (a b : Byte) : (carryOf a b).toNat = if 256 ≤ a.toNat + b.toNat then 1 else 0 := by
  unfold carryOf; split <;> simp_all

@[simp] theorem notBorrowOf_toNat (a b : Byte) : (notBorrowOf a b).toNat = if b.toNat ≤ a.toNat then 1 else 0 := by
  unfold notBorrowOf; split <;> simp_all

@[simp] theorem shiftedOutRight_toNat (a : Byte) : (shiftedOutRight a).toNat = a.toNat % 2 := by
  simp only [shiftedOutRight, BitVec.getLsbD, Nat.testBit_zero]
  have := Nat.mod_two_eq_zero_or_one a.toNat
  rcases this with h | h <;> simp [h]

@[simp] theorem shiftedOutLeft_toNat (a : Byte) : (shiftedOutLeft a).toNat = a.toNat / 128 := by
  simp only [shiftedOutLeft, BitVec.getLsbD, Nat.testBit_eq_decide_div_mod_eq]
  have h := a.isLt
  have e : a.toNat / 2 ^ 7 = 0 ∨ a.toNat / 2 ^ 7 = 1 := by omega
  rw [show a.toNat / 128 = a.toNat / 2 ^ 7 from rfl]
  rcases e with e | e <;> rw [e] <;> rfl

end Sys2Proof.Machine
end

