-- ==== Sys2Proof/Laws/Memory.lean ====
section
/-! SUPPORT. Memory: a read after a write, the canonical form kept, the range check. -/

namespace Sys2Proof.Machine

/-! ## lookup and insert -/

theorem Memory.lookup_insert (m : Memory) (a b : Nat) (v : Byte) :
    Memory.lookup (Memory.insert m a v) b = if b = a then some v else Memory.lookup m b := by
  induction m with
  | nil => simp [Memory.insert, Memory.lookup]
  | cons c m ih =>
    obtain ⟨c, w⟩ := c
    simp only [Memory.insert]
    split
    · simp [Memory.lookup]
    · split
      next h => subst h; by_cases hb : b = a <;> simp [Memory.lookup, hb]
      next h1 h2 =>
        simp only [Memory.lookup, ih]
        by_cases hb : b = c
        · have : c ≠ a := fun e => h2 e.symm
          simp [hb, this]
        · simp [hb]

/-! ## byteAt and write -/

theorem Memory.byteAt_write (m : Memory) (a b : Nat) (v : Byte) :
    Memory.byteAt (Memory.write m a v) b = if b = a ∧ a < Config.memSize then v else Memory.byteAt m b := by
  unfold Memory.write Memory.byteAt
  split
  next h => rw [Memory.lookup_insert]; by_cases hb : b = a <;> simp [hb, h]
  next h => simp [h]

/-- What memory reads as after bytes are written at rising addresses. -/
theorem Memory.byteAt_writeBytes (vs : List Byte) (m : Memory) (a b : Nat) (h : a + vs.length ≤ Config.memSize) :
    Memory.byteAt (Memory.writeBytes m a vs) b =
      if h : a ≤ b ∧ b < a + vs.length then vs[b - a]'(by omega) else Memory.byteAt m b := by
  induction vs generalizing m a with
  | nil => simp only [Memory.writeBytes]; rw [dif_neg (by simp)]
  | cons v vs ih =>
    simp only [List.length_cons] at h ⊢
    rw [Memory.writeBytes, ih _ _ (by omega)]
    by_cases hb : b = a
    · subst hb
      rw [dif_neg (by omega), dif_pos (by omega), Memory.byteAt_write, if_pos ⟨rfl, by omega⟩]
      simp
    · by_cases hr : a ≤ b ∧ b < a + (vs.length + 1)
      · rw [dif_pos (by omega), dif_pos hr]
        have hs : b - a = (b - (a + 1)) + 1 := by omega
        simp [hs]
      · rw [dif_neg (by omega), dif_neg hr, Memory.byteAt_write, if_neg (by simp [hb])]

theorem Memory.byteAt_nil (a : Nat) : Memory.byteAt [] a = resetByte a := rfl

/-! ## The canonical form -/

theorem Memory.wfFrom_mono {lo lo' : Nat} {m : Memory} (h : lo' ≤ lo) (w : Memory.wfFrom lo m = true) :
    Memory.wfFrom lo' m = true := by
  cases m with
  | nil => rfl
  | cons c m =>
    simp only [Memory.wfFrom, Bool.and_eq_true, decide_eq_true_eq] at w ⊢
    exact ⟨⟨by omega, w.1.2⟩, w.2⟩

theorem Memory.wfFrom_insert {lo a : Nat} {m : Memory} (v : Byte) (hlo : lo ≤ a) (ha : a < Config.memSize)
    (w : Memory.wfFrom lo m = true) : Memory.wfFrom lo (Memory.insert m a v) = true := by
  induction m generalizing lo with
  | nil => simp [Memory.insert, Memory.wfFrom, hlo, ha]
  | cons c m ih =>
    obtain ⟨c, u⟩ := c
    simp only [Memory.wfFrom, Bool.and_eq_true, decide_eq_true_eq] at w
    simp only [Memory.insert]
    split
    next h =>
      simp only [Memory.wfFrom, Bool.and_eq_true, decide_eq_true_eq]
      exact ⟨⟨hlo, ha⟩, ⟨by omega, w.1.2⟩, w.2⟩
    next h =>
      split
      next e =>
        subst e
        simp only [Memory.wfFrom, Bool.and_eq_true, decide_eq_true_eq]
        exact ⟨⟨hlo, ha⟩, w.2⟩
      next e =>
        simp only [Memory.wfFrom, Bool.and_eq_true, decide_eq_true_eq]
        exact ⟨w.1, ih (by omega) w.2⟩

theorem Memory.wf_write {m : Memory} (a : Nat) (v : Byte) (w : Memory.wf m = true) :
    Memory.wf (Memory.write m a v) = true := by
  unfold Memory.write
  split
  next h => exact Memory.wfFrom_insert v (Nat.zero_le a) h w
  next => exact w

theorem Memory.wf_writeBytes (vs : List Byte) {m : Memory} (a : Nat) (w : Memory.wf m = true) :
    Memory.wf (Memory.writeBytes m a vs) = true := by
  induction vs generalizing m a with
  | nil => exact w
  | cons v vs ih => exact ih (a + 1) (Memory.wf_write a v w)

theorem Memory.wf_nil : Memory.wf [] = true := rfl

theorem Memory.lookup_eq_none_of_lt {m : Memory} {lo a : Nat} (w : Memory.wfFrom lo m = true) (h : a < lo) :
    Memory.lookup m a = none := by
  induction m generalizing lo with
  | nil => rfl
  | cons c m ih =>
    obtain ⟨c, u⟩ := c
    simp only [Memory.wfFrom, Bool.and_eq_true, decide_eq_true_eq] at w
    rw [Memory.lookup, if_neg (by omega)]
    exact ih w.2 (by omega)

/-! ## The range check (20_memory.md R66) -/

theorem firstOutOfRange_none {base len : Nat} (h : base + len ≤ Config.memSize) : firstOutOfRange base len = none := by
  unfold firstOutOfRange
  rw [if_neg (by omega)]

theorem firstOutOfRange_some {base len : Nat} (hl : 0 < len) (h : Config.memSize < base + len) :
    firstOutOfRange base len = some (max base Config.memSize) := by
  unfold firstOutOfRange
  rw [if_pos ⟨hl, by omega⟩]

/-- Everything an instruction with a range check can do: stop with the lowest bad address, or run with every address good. -/
theorem State.withRange_cases (s : State) (base len : Nat) (i : Instr) (f : State → State) :
    (0 < len ∧ Config.memSize < base + len ∧
      s.withRange base len i f = s.raise (.memoryOutOfRange (max base Config.memSize)) i) ∨
    ((len = 0 ∨ base + len ≤ Config.memSize) ∧ s.withRange base len i f = f s) := by
  unfold State.withRange firstOutOfRange
  by_cases h : 0 < len ∧ Config.memSize ≤ base + len - 1
  · rw [if_pos h]; exact .inl ⟨h.1, by omega, rfl⟩
  · rw [if_neg h]; exact .inr ⟨by omega, rfl⟩

/-- Everything a fetch can do (30_encoding.md R88). -/
theorem State.fetch_cases (s : State) :
    (Config.memSize ≤ s.pc.toNat + 1 ∧ s.fetch = .error (max s.pc.toNat Config.memSize)) ∨
    (s.pc.toNat + 1 < Config.memSize ∧
      s.fetch = .ok (opcodeOfBytes (Memory.byteAt s.mem s.pc.toNat) (Memory.byteAt s.mem (s.pc.toNat + 1)))) := by
  unfold State.fetch
  by_cases h : Config.memSize ≤ s.pc.toNat + 1
  · rw [firstOutOfRange_some (by omega) (by omega)]; exact .inl ⟨h, rfl⟩
  · rw [firstOutOfRange_none (by omega)]; exact .inr ⟨by omega, rfl⟩

end Sys2Proof.Machine
end

