-- ==== Sys2Proof/Laws/PerInstr.lean ====
section
/-! SUPPORT. Per instruction: its encoding lies in its row of the opcode map. -/

namespace Sys2Proof.Laws

variable (c a b d c' a' b' d' : Nibble) (nn nn' : Byte) (nnn nnn' : BitVec 12)

theorem fromNibbles_and :
    fromNibbles c a b d &&& fromNibbles c' a' b' d' = fromNibbles (c &&& c') (a &&& a') (b &&& b') (d &&& d') := by
  apply BitVec.eq_of_getLsbD_eq
  intro i hi
  simp only [BitVec.getLsbD_and, getLsbD_fromNibbles]
  split_ifs <;> rfl

theorem fromByte_and :
    fromByte c a nn &&& fromByte c' a' nn' = fromByte (c &&& c') (a &&& a') (nn &&& nn') := by
  apply BitVec.eq_of_getLsbD_eq
  intro i hi
  simp only [BitVec.getLsbD_and, getLsbD_fromByte]
  split_ifs <;> rfl

theorem fromAddr_and : fromAddr c nnn &&& fromAddr c' nnn' = fromAddr (c &&& c') (nnn &&& nnn') := by
  apply BitVec.eq_of_getLsbD_eq
  intro i hi
  simp only [BitVec.getLsbD_and, getLsbD_fromAddr]
  split_ifs <;> rfl

/-- A class, under the mask that keeps the class alone (30_encoding.md R84). -/
theorem fromAddr_mask_class : fromAddr c nnn &&& 0xF000#16 = fromAddr c 0 := by
  have h : (0xF000#16 : Opcode) = fromAddr 0xF 0 := by decide
  rw [h, fromAddr_and]
  congr 1
  · exact BitVec.and_allOnes
  · exact BitVec.and_zero

theorem fromByte_mask_class : fromByte c a nn &&& 0xF000#16 = fromByte c 0 0 := by
  have h : (0xF000#16 : Opcode) = fromByte 0xF 0 0 := by decide
  rw [h, fromByte_and]
  congr 1
  · exact BitVec.and_allOnes
  · exact BitVec.and_zero
  · exact BitVec.and_zero

theorem fromNibbles_mask_class : fromNibbles c a b d &&& 0xF000#16 = fromNibbles c 0 0 0 := by
  have h : (0xF000#16 : Opcode) = fromNibbles 0xF 0 0 0 := by decide
  rw [h, fromNibbles_and]
  congr 1
  · exact BitVec.and_allOnes
  · exact BitVec.and_zero
  · exact BitVec.and_zero
  · exact BitVec.and_zero

/-- A class and its low-nibble submask (30_encoding.md R85). -/
theorem fromNibbles_mask_nibble : fromNibbles c a b d &&& 0xF00F#16 = fromNibbles c 0 0 d := by
  have h : (0xF00F#16 : Opcode) = fromNibbles 0xF 0 0 0xF := by decide
  rw [h, fromNibbles_and]
  congr 1
  · exact BitVec.and_allOnes
  · exact BitVec.and_zero
  · exact BitVec.and_zero
  · exact BitVec.and_allOnes

/-- A class and its low-byte submask (30_encoding.md R85). -/
theorem fromByte_mask_byte : fromByte c a nn &&& 0xF0FF#16 = fromByte c 0 nn := by
  have h : (0xF0FF#16 : Opcode) = fromByte 0xF 0 0xFF := by decide
  rw [h, fromByte_and]
  congr 1
  · exact BitVec.and_allOnes
  · exact BitVec.and_zero
  · exact BitVec.and_allOnes

end Sys2Proof.Laws

namespace Sys2Proof.Laws.OpcodeRow

/-- The encoding of an instruction, under its row's mask, is its row's match (30_encoding.md R90). -/
def Statement (i : Instr) : Prop := encode i &&& rowMask i = rowMatch i

end Sys2Proof.Laws.OpcodeRow

theorem Sys2Proof.Laws.OpcodeRow.clear (z : Sys2Proof.Nibble) :
    Sys2Proof.Laws.OpcodeRow.Statement (.clear z) :=
  (Sys2Proof.Laws.fromByte_mask_byte _ _ _).trans rfl
theorem Sys2Proof.Laws.OpcodeRow.ret (z : Sys2Proof.Nibble) :
    Sys2Proof.Laws.OpcodeRow.Statement (.ret z) :=
  (Sys2Proof.Laws.fromByte_mask_byte _ _ _).trans rfl
theorem Sys2Proof.Laws.OpcodeRow.jump (nnn : BitVec 12) :
    Sys2Proof.Laws.OpcodeRow.Statement (.jump nnn) :=
  (Sys2Proof.Laws.fromAddr_mask_class _ _).trans rfl
theorem Sys2Proof.Laws.OpcodeRow.call (nnn : BitVec 12) :
    Sys2Proof.Laws.OpcodeRow.Statement (.call nnn) :=
  (Sys2Proof.Laws.fromAddr_mask_class _ _).trans rfl
theorem Sys2Proof.Laws.OpcodeRow.skipEq (x : Sys2Proof.RegIdx) (nn : Sys2Proof.Byte) :
    Sys2Proof.Laws.OpcodeRow.Statement (.skipEq x nn) :=
  (Sys2Proof.Laws.fromByte_mask_class _ _ _).trans rfl
theorem Sys2Proof.Laws.OpcodeRow.skipNe (x : Sys2Proof.RegIdx) (nn : Sys2Proof.Byte) :
    Sys2Proof.Laws.OpcodeRow.Statement (.skipNe x nn) :=
  (Sys2Proof.Laws.fromByte_mask_class _ _ _).trans rfl
theorem Sys2Proof.Laws.OpcodeRow.skipEqReg (x : Sys2Proof.RegIdx) (y : Sys2Proof.RegIdx) (z : Sys2Proof.Nibble) :
    Sys2Proof.Laws.OpcodeRow.Statement (.skipEqReg x y z) :=
  (Sys2Proof.Laws.fromNibbles_mask_class _ _ _ _).trans rfl
theorem Sys2Proof.Laws.OpcodeRow.load (x : Sys2Proof.RegIdx) (nn : Sys2Proof.Byte) :
    Sys2Proof.Laws.OpcodeRow.Statement (.load x nn) :=
  (Sys2Proof.Laws.fromByte_mask_class _ _ _).trans rfl
theorem Sys2Proof.Laws.OpcodeRow.addImm (x : Sys2Proof.RegIdx) (nn : Sys2Proof.Byte) :
    Sys2Proof.Laws.OpcodeRow.Statement (.addImm x nn) :=
  (Sys2Proof.Laws.fromByte_mask_class _ _ _).trans rfl
theorem Sys2Proof.Laws.OpcodeRow.move (x : Sys2Proof.RegIdx) (y : Sys2Proof.RegIdx) :
    Sys2Proof.Laws.OpcodeRow.Statement (.move x y) :=
  (Sys2Proof.Laws.fromNibbles_mask_nibble _ _ _ _).trans rfl
theorem Sys2Proof.Laws.OpcodeRow.or (x : Sys2Proof.RegIdx) (y : Sys2Proof.RegIdx) :
    Sys2Proof.Laws.OpcodeRow.Statement (.or x y) :=
  (Sys2Proof.Laws.fromNibbles_mask_nibble _ _ _ _).trans rfl
theorem Sys2Proof.Laws.OpcodeRow.and (x : Sys2Proof.RegIdx) (y : Sys2Proof.RegIdx) :
    Sys2Proof.Laws.OpcodeRow.Statement (.and x y) :=
  (Sys2Proof.Laws.fromNibbles_mask_nibble _ _ _ _).trans rfl
theorem Sys2Proof.Laws.OpcodeRow.xor (x : Sys2Proof.RegIdx) (y : Sys2Proof.RegIdx) :
    Sys2Proof.Laws.OpcodeRow.Statement (.xor x y) :=
  (Sys2Proof.Laws.fromNibbles_mask_nibble _ _ _ _).trans rfl
theorem Sys2Proof.Laws.OpcodeRow.add (x : Sys2Proof.RegIdx) (y : Sys2Proof.RegIdx) :
    Sys2Proof.Laws.OpcodeRow.Statement (.add x y) :=
  (Sys2Proof.Laws.fromNibbles_mask_nibble _ _ _ _).trans rfl
theorem Sys2Proof.Laws.OpcodeRow.sub (x : Sys2Proof.RegIdx) (y : Sys2Proof.RegIdx) :
    Sys2Proof.Laws.OpcodeRow.Statement (.sub x y) :=
  (Sys2Proof.Laws.fromNibbles_mask_nibble _ _ _ _).trans rfl
theorem Sys2Proof.Laws.OpcodeRow.shr (x : Sys2Proof.RegIdx) (y : Sys2Proof.RegIdx) :
    Sys2Proof.Laws.OpcodeRow.Statement (.shr x y) :=
  (Sys2Proof.Laws.fromNibbles_mask_nibble _ _ _ _).trans rfl
theorem Sys2Proof.Laws.OpcodeRow.subn (x : Sys2Proof.RegIdx) (y : Sys2Proof.RegIdx) :
    Sys2Proof.Laws.OpcodeRow.Statement (.subn x y) :=
  (Sys2Proof.Laws.fromNibbles_mask_nibble _ _ _ _).trans rfl
theorem Sys2Proof.Laws.OpcodeRow.shl (x : Sys2Proof.RegIdx) (y : Sys2Proof.RegIdx) :
    Sys2Proof.Laws.OpcodeRow.Statement (.shl x y) :=
  (Sys2Proof.Laws.fromNibbles_mask_nibble _ _ _ _).trans rfl
theorem Sys2Proof.Laws.OpcodeRow.skipNeReg (x : Sys2Proof.RegIdx) (y : Sys2Proof.RegIdx) (z : Sys2Proof.Nibble) :
    Sys2Proof.Laws.OpcodeRow.Statement (.skipNeReg x y z) :=
  (Sys2Proof.Laws.fromNibbles_mask_class _ _ _ _).trans rfl
theorem Sys2Proof.Laws.OpcodeRow.loadI (nnn : BitVec 12) :
    Sys2Proof.Laws.OpcodeRow.Statement (.loadI nnn) :=
  (Sys2Proof.Laws.fromAddr_mask_class _ _).trans rfl
theorem Sys2Proof.Laws.OpcodeRow.jumpPlusV0 (nnn : BitVec 12) :
    Sys2Proof.Laws.OpcodeRow.Statement (.jumpPlusV0 nnn) :=
  (Sys2Proof.Laws.fromAddr_mask_class _ _).trans rfl
theorem Sys2Proof.Laws.OpcodeRow.rand (x : Sys2Proof.RegIdx) (nn : Sys2Proof.Byte) :
    Sys2Proof.Laws.OpcodeRow.Statement (.rand x nn) :=
  (Sys2Proof.Laws.fromByte_mask_class _ _ _).trans rfl
theorem Sys2Proof.Laws.OpcodeRow.draw (x : Sys2Proof.RegIdx) (y : Sys2Proof.RegIdx) (n : Sys2Proof.Nibble) :
    Sys2Proof.Laws.OpcodeRow.Statement (.draw x y n) :=
  (Sys2Proof.Laws.fromNibbles_mask_class _ _ _ _).trans rfl
theorem Sys2Proof.Laws.OpcodeRow.skipKeyPressed (x : Sys2Proof.RegIdx) :
    Sys2Proof.Laws.OpcodeRow.Statement (.skipKeyPressed x) :=
  (Sys2Proof.Laws.fromByte_mask_byte _ _ _).trans rfl
theorem Sys2Proof.Laws.OpcodeRow.skipKeyNotPressed (x : Sys2Proof.RegIdx) :
    Sys2Proof.Laws.OpcodeRow.Statement (.skipKeyNotPressed x) :=
  (Sys2Proof.Laws.fromByte_mask_byte _ _ _).trans rfl
theorem Sys2Proof.Laws.OpcodeRow.loadDelay (x : Sys2Proof.RegIdx) :
    Sys2Proof.Laws.OpcodeRow.Statement (.loadDelay x) :=
  (Sys2Proof.Laws.fromByte_mask_byte _ _ _).trans rfl
theorem Sys2Proof.Laws.OpcodeRow.waitKey (x : Sys2Proof.RegIdx) :
    Sys2Proof.Laws.OpcodeRow.Statement (.waitKey x) :=
  (Sys2Proof.Laws.fromByte_mask_byte _ _ _).trans rfl
theorem Sys2Proof.Laws.OpcodeRow.storeDelay (x : Sys2Proof.RegIdx) :
    Sys2Proof.Laws.OpcodeRow.Statement (.storeDelay x) :=
  (Sys2Proof.Laws.fromByte_mask_byte _ _ _).trans rfl
theorem Sys2Proof.Laws.OpcodeRow.storeSound (x : Sys2Proof.RegIdx) :
    Sys2Proof.Laws.OpcodeRow.Statement (.storeSound x) :=
  (Sys2Proof.Laws.fromByte_mask_byte _ _ _).trans rfl
theorem Sys2Proof.Laws.OpcodeRow.addI (x : Sys2Proof.RegIdx) :
    Sys2Proof.Laws.OpcodeRow.Statement (.addI x) :=
  (Sys2Proof.Laws.fromByte_mask_byte _ _ _).trans rfl
theorem Sys2Proof.Laws.OpcodeRow.loadFontAddr (x : Sys2Proof.RegIdx) :
    Sys2Proof.Laws.OpcodeRow.Statement (.loadFontAddr x) :=
  (Sys2Proof.Laws.fromByte_mask_byte _ _ _).trans rfl
theorem Sys2Proof.Laws.OpcodeRow.storeBcd (x : Sys2Proof.RegIdx) :
    Sys2Proof.Laws.OpcodeRow.Statement (.storeBcd x) :=
  (Sys2Proof.Laws.fromByte_mask_byte _ _ _).trans rfl
theorem Sys2Proof.Laws.OpcodeRow.storeRegs (x : Sys2Proof.RegIdx) :
    Sys2Proof.Laws.OpcodeRow.Statement (.storeRegs x) :=
  (Sys2Proof.Laws.fromByte_mask_byte _ _ _).trans rfl
theorem Sys2Proof.Laws.OpcodeRow.loadRegs (x : Sys2Proof.RegIdx) :
    Sys2Proof.Laws.OpcodeRow.Statement (.loadRegs x) :=
  (Sys2Proof.Laws.fromByte_mask_byte _ _ _).trans rfl
theorem Sys2Proof.Laws.OpcodeRow.noop (op : Sys2Proof.Opcode) : Sys2Proof.Laws.OpcodeRow.Statement (.noop op) :=
  BitVec.and_zero
end

