-- ==== Sys2Proof/Laws/Stack.lean ====
section
/-! SUPPORT. The call stack's length, and everything push and pop can do. -/

namespace Sys2Proof.Machine

theorem CallStack.len_le (k : CallStack) : k.len ≤ Config.stackDepth := by
  unfold CallStack.len
  split
  · exact Nat.zero_le _
  · exact k.sp.isLt

@[simp] theorem CallStack.length_toList (k : CallStack) : k.toList.length = k.len := by
  have := k.len_le
  simp [CallStack.toList]
  omega

/-- Everything a push can do (10_state.md R38). -/
theorem CallStack.push_cases (k : CallStack) (a : Addr) :
    (k.len = Config.stackDepth ∧ k.push a = none) ∨
    ∃ k', k.len < Config.stackDepth ∧ k.push a = some k' ∧ k'.empty = false ∧ k'.sp.val = k.len ∧
      k'.slots = k.slots.set k'.sp.val a := by
  have hle := k.len_le
  unfold CallStack.push
  by_cases h : k.len = Config.stackDepth
  · exact .inl ⟨h, if_pos h⟩
  · rw [if_neg h]
    refine .inr ⟨_, by omega, rfl, rfl, ?_, rfl⟩
    change (if k.empty then 0 else k.sp + 1).val = k.len
    cases he : k.empty with
    | true => simp [CallStack.len, he]
    | false =>
      have hlen : k.len = k.sp.val + 1 := by simp [CallStack.len, he]
      simp only [Config.stackDepth] at h hle
      simp only [hlen, Bool.false_eq_true, if_false]
      rw [Fin.val_add]
      have : ((1 : Fin 15) : Nat) = 1 := rfl
      rw [this, Nat.mod_eq_of_lt (by omega)]

/-- Everything a pop can do (10_state.md R39). -/
theorem CallStack.pop_cases (k : CallStack) :
    (k.len = 0 ∧ k.pop = none) ∨
    ∃ k', k.empty = false ∧ k.pop = some (k.slots[k.sp.val], k') ∧ k'.slots = k.slots ∧ k.len = k'.len + 1 ∧
      (k'.empty = true → k'.sp = 0) := by
  unfold CallStack.pop
  cases he : k.empty with
  | true => exact .inl ⟨by simp [CallStack.len, he], rfl⟩
  | false =>
    right
    by_cases h0 : k.sp = 0
    · refine ⟨{ k with empty := true }, rfl, by simp [h0], rfl, ?_, fun _ => h0⟩
      simp [CallStack.len, he, h0]
    · refine ⟨{ k with sp := k.sp - 1 }, rfl, by simp [h0, he], rfl, ?_, fun h => Bool.noConfusion (he.symm.trans h)⟩
      have hne : k.sp.val ≠ 0 := fun e => h0 (Fin.ext e)
      have hsub : (k.sp - 1).val = k.sp.val - 1 := by
        rw [Fin.sub_val_of_le (by rw [Fin.le_def]; change 1 ≤ k.sp.val; omega)]
        rfl
      simp only [CallStack.len, he, hsub, Bool.false_eq_true, if_false]
      omega

end Sys2Proof.Machine
end

