-- ==== Sys2Proof/Laws/State.lean ====
section
/-! SUPPORT. What each named update of the state does to each field, and to what a register reads as. -/

namespace Sys2Proof.Machine

variable (s : State)

/-! ### setV -/

@[simp] theorem State.setV_v (x : RegIdx) (b : Byte) : (s.setV x b).v = s.v.set x.val b := rfl
@[simp] theorem State.setV_i (x : RegIdx) (b : Byte) : (s.setV x b).i = s.i := rfl
@[simp] theorem State.setV_pc (x : RegIdx) (b : Byte) : (s.setV x b).pc = s.pc := rfl
@[simp] theorem State.setV_dt (x : RegIdx) (b : Byte) : (s.setV x b).dt = s.dt := rfl
@[simp] theorem State.setV_st (x : RegIdx) (b : Byte) : (s.setV x b).st = s.st := rfl
@[simp] theorem State.setV_stk (x : RegIdx) (b : Byte) : (s.setV x b).stk = s.stk := rfl
@[simp] theorem State.setV_fb (x : RegIdx) (b : Byte) : (s.setV x b).fb = s.fb := rfl
@[simp] theorem State.setV_mem (x : RegIdx) (b : Byte) : (s.setV x b).mem = s.mem := rfl
@[simp] theorem State.setV_stop (x : RegIdx) (b : Byte) : (s.setV x b).stop = s.stop := rfl
@[simp] theorem State.setV_presents (x : RegIdx) (b : Byte) : (s.setV x b).presents = s.presents := rfl
@[simp] theorem State.setV_oracleIx (x : RegIdx) (b : Byte) : (s.setV x b).oracleIx = s.oracleIx := rfl

/-! ### setRegs -/

@[simp] theorem State.setRegs_v (w : Vector Byte 16) : (s.setRegs w).v = w := rfl
@[simp] theorem State.setRegs_i (w : Vector Byte 16) : (s.setRegs w).i = s.i := rfl
@[simp] theorem State.setRegs_pc (w : Vector Byte 16) : (s.setRegs w).pc = s.pc := rfl
@[simp] theorem State.setRegs_dt (w : Vector Byte 16) : (s.setRegs w).dt = s.dt := rfl
@[simp] theorem State.setRegs_st (w : Vector Byte 16) : (s.setRegs w).st = s.st := rfl
@[simp] theorem State.setRegs_stk (w : Vector Byte 16) : (s.setRegs w).stk = s.stk := rfl
@[simp] theorem State.setRegs_fb (w : Vector Byte 16) : (s.setRegs w).fb = s.fb := rfl
@[simp] theorem State.setRegs_mem (w : Vector Byte 16) : (s.setRegs w).mem = s.mem := rfl
@[simp] theorem State.setRegs_stop (w : Vector Byte 16) : (s.setRegs w).stop = s.stop := rfl
@[simp] theorem State.setRegs_presents (w : Vector Byte 16) : (s.setRegs w).presents = s.presents := rfl
@[simp] theorem State.setRegs_oracleIx (w : Vector Byte 16) : (s.setRegs w).oracleIx = s.oracleIx := rfl

/-! ### setI -/

@[simp] theorem State.setI_v (a : Addr) : (s.setI a).v = s.v := rfl
@[simp] theorem State.setI_i (a : Addr) : (s.setI a).i = a := rfl
@[simp] theorem State.setI_pc (a : Addr) : (s.setI a).pc = s.pc := rfl
@[simp] theorem State.setI_dt (a : Addr) : (s.setI a).dt = s.dt := rfl
@[simp] theorem State.setI_st (a : Addr) : (s.setI a).st = s.st := rfl
@[simp] theorem State.setI_stk (a : Addr) : (s.setI a).stk = s.stk := rfl
@[simp] theorem State.setI_fb (a : Addr) : (s.setI a).fb = s.fb := rfl
@[simp] theorem State.setI_mem (a : Addr) : (s.setI a).mem = s.mem := rfl
@[simp] theorem State.setI_stop (a : Addr) : (s.setI a).stop = s.stop := rfl
@[simp] theorem State.setI_presents (a : Addr) : (s.setI a).presents = s.presents := rfl
@[simp] theorem State.setI_oracleIx (a : Addr) : (s.setI a).oracleIx = s.oracleIx := rfl
@[simp] theorem State.setI_reg (a : Addr) (r : RegIdx) : (s.setI a).reg r = s.reg r := rfl

/-! ### setPc -/

@[simp] theorem State.setPc_v (a : Addr) : (s.setPc a).v = s.v := rfl
@[simp] theorem State.setPc_i (a : Addr) : (s.setPc a).i = s.i := rfl
@[simp] theorem State.setPc_pc (a : Addr) : (s.setPc a).pc = a := rfl
@[simp] theorem State.setPc_dt (a : Addr) : (s.setPc a).dt = s.dt := rfl
@[simp] theorem State.setPc_st (a : Addr) : (s.setPc a).st = s.st := rfl
@[simp] theorem State.setPc_stk (a : Addr) : (s.setPc a).stk = s.stk := rfl
@[simp] theorem State.setPc_fb (a : Addr) : (s.setPc a).fb = s.fb := rfl
@[simp] theorem State.setPc_mem (a : Addr) : (s.setPc a).mem = s.mem := rfl
@[simp] theorem State.setPc_stop (a : Addr) : (s.setPc a).stop = s.stop := rfl
@[simp] theorem State.setPc_presents (a : Addr) : (s.setPc a).presents = s.presents := rfl
@[simp] theorem State.setPc_oracleIx (a : Addr) : (s.setPc a).oracleIx = s.oracleIx := rfl
@[simp] theorem State.setPc_reg (a : Addr) (r : RegIdx) : (s.setPc a).reg r = s.reg r := rfl

/-! ### setDT -/

@[simp] theorem State.setDT_v (b : Byte) : (s.setDT b).v = s.v := rfl
@[simp] theorem State.setDT_i (b : Byte) : (s.setDT b).i = s.i := rfl
@[simp] theorem State.setDT_pc (b : Byte) : (s.setDT b).pc = s.pc := rfl
@[simp] theorem State.setDT_dt (b : Byte) : (s.setDT b).dt = b := rfl
@[simp] theorem State.setDT_st (b : Byte) : (s.setDT b).st = s.st := rfl
@[simp] theorem State.setDT_stk (b : Byte) : (s.setDT b).stk = s.stk := rfl
@[simp] theorem State.setDT_fb (b : Byte) : (s.setDT b).fb = s.fb := rfl
@[simp] theorem State.setDT_mem (b : Byte) : (s.setDT b).mem = s.mem := rfl
@[simp] theorem State.setDT_stop (b : Byte) : (s.setDT b).stop = s.stop := rfl
@[simp] theorem State.setDT_presents (b : Byte) : (s.setDT b).presents = s.presents := rfl
@[simp] theorem State.setDT_oracleIx (b : Byte) : (s.setDT b).oracleIx = s.oracleIx := rfl
@[simp] theorem State.setDT_reg (b : Byte) (r : RegIdx) : (s.setDT b).reg r = s.reg r := rfl

/-! ### setST -/

@[simp] theorem State.setST_v (b : Byte) : (s.setST b).v = s.v := rfl
@[simp] theorem State.setST_i (b : Byte) : (s.setST b).i = s.i := rfl
@[simp] theorem State.setST_pc (b : Byte) : (s.setST b).pc = s.pc := rfl
@[simp] theorem State.setST_dt (b : Byte) : (s.setST b).dt = s.dt := rfl
@[simp] theorem State.setST_st (b : Byte) : (s.setST b).st = b := rfl
@[simp] theorem State.setST_stk (b : Byte) : (s.setST b).stk = s.stk := rfl
@[simp] theorem State.setST_fb (b : Byte) : (s.setST b).fb = s.fb := rfl
@[simp] theorem State.setST_mem (b : Byte) : (s.setST b).mem = s.mem := rfl
@[simp] theorem State.setST_stop (b : Byte) : (s.setST b).stop = s.stop := rfl
@[simp] theorem State.setST_presents (b : Byte) : (s.setST b).presents = s.presents := rfl
@[simp] theorem State.setST_oracleIx (b : Byte) : (s.setST b).oracleIx = s.oracleIx := rfl
@[simp] theorem State.setST_reg (b : Byte) (r : RegIdx) : (s.setST b).reg r = s.reg r := rfl

/-! ### setStk -/

@[simp] theorem State.setStk_v (k : CallStack) : (s.setStk k).v = s.v := rfl
@[simp] theorem State.setStk_i (k : CallStack) : (s.setStk k).i = s.i := rfl
@[simp] theorem State.setStk_pc (k : CallStack) : (s.setStk k).pc = s.pc := rfl
@[simp] theorem State.setStk_dt (k : CallStack) : (s.setStk k).dt = s.dt := rfl
@[simp] theorem State.setStk_st (k : CallStack) : (s.setStk k).st = s.st := rfl
@[simp] theorem State.setStk_stk (k : CallStack) : (s.setStk k).stk = k := rfl
@[simp] theorem State.setStk_fb (k : CallStack) : (s.setStk k).fb = s.fb := rfl
@[simp] theorem State.setStk_mem (k : CallStack) : (s.setStk k).mem = s.mem := rfl
@[simp] theorem State.setStk_stop (k : CallStack) : (s.setStk k).stop = s.stop := rfl
@[simp] theorem State.setStk_presents (k : CallStack) : (s.setStk k).presents = s.presents := rfl
@[simp] theorem State.setStk_oracleIx (k : CallStack) : (s.setStk k).oracleIx = s.oracleIx := rfl
@[simp] theorem State.setStk_reg (k : CallStack) (r : RegIdx) : (s.setStk k).reg r = s.reg r := rfl

/-! ### setFB -/

@[simp] theorem State.setFB_v (f : Framebuffer) : (s.setFB f).v = s.v := rfl
@[simp] theorem State.setFB_i (f : Framebuffer) : (s.setFB f).i = s.i := rfl
@[simp] theorem State.setFB_pc (f : Framebuffer) : (s.setFB f).pc = s.pc := rfl
@[simp] theorem State.setFB_dt (f : Framebuffer) : (s.setFB f).dt = s.dt := rfl
@[simp] theorem State.setFB_st (f : Framebuffer) : (s.setFB f).st = s.st := rfl
@[simp] theorem State.setFB_stk (f : Framebuffer) : (s.setFB f).stk = s.stk := rfl
@[simp] theorem State.setFB_fb (f : Framebuffer) : (s.setFB f).fb = f := rfl
@[simp] theorem State.setFB_mem (f : Framebuffer) : (s.setFB f).mem = s.mem := rfl
@[simp] theorem State.setFB_stop (f : Framebuffer) : (s.setFB f).stop = s.stop := rfl
@[simp] theorem State.setFB_presents (f : Framebuffer) : (s.setFB f).presents = s.presents := rfl
@[simp] theorem State.setFB_oracleIx (f : Framebuffer) : (s.setFB f).oracleIx = s.oracleIx := rfl
@[simp] theorem State.setFB_reg (f : Framebuffer) (r : RegIdx) : (s.setFB f).reg r = s.reg r := rfl

/-! ### setMem -/

@[simp] theorem State.setMem_v (m : Memory) : (s.setMem m).v = s.v := rfl
@[simp] theorem State.setMem_i (m : Memory) : (s.setMem m).i = s.i := rfl
@[simp] theorem State.setMem_pc (m : Memory) : (s.setMem m).pc = s.pc := rfl
@[simp] theorem State.setMem_dt (m : Memory) : (s.setMem m).dt = s.dt := rfl
@[simp] theorem State.setMem_st (m : Memory) : (s.setMem m).st = s.st := rfl
@[simp] theorem State.setMem_stk (m : Memory) : (s.setMem m).stk = s.stk := rfl
@[simp] theorem State.setMem_fb (m : Memory) : (s.setMem m).fb = s.fb := rfl
@[simp] theorem State.setMem_mem (m : Memory) : (s.setMem m).mem = m := rfl
@[simp] theorem State.setMem_stop (m : Memory) : (s.setMem m).stop = s.stop := rfl
@[simp] theorem State.setMem_presents (m : Memory) : (s.setMem m).presents = s.presents := rfl
@[simp] theorem State.setMem_oracleIx (m : Memory) : (s.setMem m).oracleIx = s.oracleIx := rfl
@[simp] theorem State.setMem_reg (m : Memory) (r : RegIdx) : (s.setMem m).reg r = s.reg r := rfl

/-! ### latch -/

@[simp] theorem State.latch_v (r : StopRecord) : (s.latch r).v = s.v := rfl
@[simp] theorem State.latch_i (r : StopRecord) : (s.latch r).i = s.i := rfl
@[simp] theorem State.latch_pc (r : StopRecord) : (s.latch r).pc = s.pc := rfl
@[simp] theorem State.latch_dt (r : StopRecord) : (s.latch r).dt = s.dt := rfl
@[simp] theorem State.latch_st (r : StopRecord) : (s.latch r).st = s.st := rfl
@[simp] theorem State.latch_stk (r : StopRecord) : (s.latch r).stk = s.stk := rfl
@[simp] theorem State.latch_fb (r : StopRecord) : (s.latch r).fb = s.fb := rfl
@[simp] theorem State.latch_mem (r : StopRecord) : (s.latch r).mem = s.mem := rfl
@[simp] theorem State.latch_stop (r : StopRecord) : (s.latch r).stop = some r := rfl
@[simp] theorem State.latch_presents (r : StopRecord) : (s.latch r).presents = s.presents := rfl
@[simp] theorem State.latch_oracleIx (r : StopRecord) : (s.latch r).oracleIx = s.oracleIx := rfl
@[simp] theorem State.latch_reg (r : StopRecord) (x : RegIdx) : (s.latch r).reg x = s.reg x := rfl

/-! ### present -/

@[simp] theorem State.present_v : (s.present).v = s.v := rfl
@[simp] theorem State.present_i : (s.present).i = s.i := rfl
@[simp] theorem State.present_pc : (s.present).pc = s.pc := rfl
@[simp] theorem State.present_dt : (s.present).dt = s.dt := rfl
@[simp] theorem State.present_st : (s.present).st = s.st := rfl
@[simp] theorem State.present_stk : (s.present).stk = s.stk := rfl
@[simp] theorem State.present_fb : (s.present).fb = s.fb := rfl
@[simp] theorem State.present_mem : (s.present).mem = s.mem := rfl
@[simp] theorem State.present_stop : (s.present).stop = s.stop := rfl
@[simp] theorem State.present_presents : (s.present).presents = s.presents ++ [s.fb] := rfl
@[simp] theorem State.present_oracleIx : (s.present).oracleIx = s.oracleIx := rfl
@[simp] theorem State.present_reg (r : RegIdx) : (s.present).reg r = s.reg r := rfl

/-! ### nextAnswer -/

@[simp] theorem State.nextAnswer_v : (s.nextAnswer).v = s.v := rfl
@[simp] theorem State.nextAnswer_i : (s.nextAnswer).i = s.i := rfl
@[simp] theorem State.nextAnswer_pc : (s.nextAnswer).pc = s.pc := rfl
@[simp] theorem State.nextAnswer_dt : (s.nextAnswer).dt = s.dt := rfl
@[simp] theorem State.nextAnswer_st : (s.nextAnswer).st = s.st := rfl
@[simp] theorem State.nextAnswer_stk : (s.nextAnswer).stk = s.stk := rfl
@[simp] theorem State.nextAnswer_fb : (s.nextAnswer).fb = s.fb := rfl
@[simp] theorem State.nextAnswer_mem : (s.nextAnswer).mem = s.mem := rfl
@[simp] theorem State.nextAnswer_stop : (s.nextAnswer).stop = s.stop := rfl
@[simp] theorem State.nextAnswer_presents : (s.nextAnswer).presents = s.presents := rfl
@[simp] theorem State.nextAnswer_oracleIx : (s.nextAnswer).oracleIx = s.oracleIx + 1 := rfl
@[simp] theorem State.nextAnswer_reg (r : RegIdx) : (s.nextAnswer).reg r = s.reg r := rfl

/-! ### reading a register after a write -/

@[simp] theorem State.setV_reg_self (x : RegIdx) (b : Byte) : (s.setV x b).reg x = b := by
  simp [State.reg]

theorem State.setV_reg_ne {x r : RegIdx} (b : Byte) (h : r ≠ x) : (s.setV x b).reg r = s.reg r := by
  have : x.val ≠ r.val := fun e => h (Fin.ext e.symm)
  simp [State.reg, this]

theorem State.setV_reg (x r : RegIdx) (b : Byte) : (s.setV x b).reg r = if r = x then b else s.reg r := by
  split
  next h => subst h; exact State.setV_reg_self s r b
  next h => exact State.setV_reg_ne s b h

@[simp] theorem State.setRegs_reg (w : Vector Byte 16) (r : RegIdx) : (s.setRegs w).reg r = w[r.val] := rfl

/-- Result first, flag last: VF ends as the flag (41_alu.md R110). -/
theorem State.setResultAndFlag_reg (x r : RegIdx) (b : Byte) (c : Bool) :
    (s.setResultAndFlag x b c).reg r = if r = vf then flagByte c else if r = x then b else s.reg r := by
  simp only [State.setResultAndFlag, State.setV_reg]

/-! ### skipIf -/

@[simp] theorem State.skipIf_v (c : Bool) : (s.skipIf c).v = s.v := by cases c <;> rfl
@[simp] theorem State.skipIf_i (c : Bool) : (s.skipIf c).i = s.i := by cases c <;> rfl
@[simp] theorem State.skipIf_pc (c : Bool) : (s.skipIf c).pc = if c then s.pc + 2 else s.pc := by cases c <;> rfl
@[simp] theorem State.skipIf_dt (c : Bool) : (s.skipIf c).dt = s.dt := by cases c <;> rfl
@[simp] theorem State.skipIf_st (c : Bool) : (s.skipIf c).st = s.st := by cases c <;> rfl
@[simp] theorem State.skipIf_stk (c : Bool) : (s.skipIf c).stk = s.stk := by cases c <;> rfl
@[simp] theorem State.skipIf_fb (c : Bool) : (s.skipIf c).fb = s.fb := by cases c <;> rfl
@[simp] theorem State.skipIf_mem (c : Bool) : (s.skipIf c).mem = s.mem := by cases c <;> rfl
@[simp] theorem State.skipIf_stop (c : Bool) : (s.skipIf c).stop = s.stop := by cases c <;> rfl
@[simp] theorem State.skipIf_presents (c : Bool) : (s.skipIf c).presents = s.presents := by cases c <;> rfl
@[simp] theorem State.skipIf_oracleIx (c : Bool) : (s.skipIf c).oracleIx = s.oracleIx := by cases c <;> rfl
@[simp] theorem State.skipIf_reg (c : Bool) (r : RegIdx) : (s.skipIf c).reg r = s.reg r := by cases c <;> rfl

/-! ### raising a stop -/

@[simp] theorem State.raise_v (c : StopCause) (i : Instr) : (s.raise c i).v = s.v := rfl
@[simp] theorem State.raise_i (c : StopCause) (i : Instr) : (s.raise c i).i = s.i := rfl
@[simp] theorem State.raise_pc (c : StopCause) (i : Instr) : (s.raise c i).pc = s.pc := rfl
@[simp] theorem State.raise_dt (c : StopCause) (i : Instr) : (s.raise c i).dt = s.dt := rfl
@[simp] theorem State.raise_st (c : StopCause) (i : Instr) : (s.raise c i).st = s.st := rfl
@[simp] theorem State.raise_stk (c : StopCause) (i : Instr) : (s.raise c i).stk = s.stk := rfl
@[simp] theorem State.raise_fb (c : StopCause) (i : Instr) : (s.raise c i).fb = s.fb := rfl
@[simp] theorem State.raise_mem (c : StopCause) (i : Instr) : (s.raise c i).mem = s.mem := rfl
@[simp] theorem State.raise_stop (c : StopCause) (i : Instr) : (s.raise c i).stop = some ⟨c, s.pc - 2, some (encode i)⟩ := rfl
@[simp] theorem State.raise_presents (c : StopCause) (i : Instr) : (s.raise c i).presents = s.presents := rfl
@[simp] theorem State.raise_oracleIx (c : StopCause) (i : Instr) : (s.raise c i).oracleIx = s.oracleIx := rfl
@[simp] theorem State.raise_reg (c : StopCause) (i : Instr) (r : RegIdx) : (s.raise c i).reg r = s.reg r := rfl

@[simp] theorem State.raiseFetch_v (a : Nat) : (s.raiseFetch a).v = s.v := rfl
@[simp] theorem State.raiseFetch_i (a : Nat) : (s.raiseFetch a).i = s.i := rfl
@[simp] theorem State.raiseFetch_pc (a : Nat) : (s.raiseFetch a).pc = s.pc := rfl
@[simp] theorem State.raiseFetch_dt (a : Nat) : (s.raiseFetch a).dt = s.dt := rfl
@[simp] theorem State.raiseFetch_st (a : Nat) : (s.raiseFetch a).st = s.st := rfl
@[simp] theorem State.raiseFetch_stk (a : Nat) : (s.raiseFetch a).stk = s.stk := rfl
@[simp] theorem State.raiseFetch_fb (a : Nat) : (s.raiseFetch a).fb = s.fb := rfl
@[simp] theorem State.raiseFetch_mem (a : Nat) : (s.raiseFetch a).mem = s.mem := rfl
@[simp] theorem State.raiseFetch_stop (a : Nat) : (s.raiseFetch a).stop = some ⟨.memoryOutOfRange a, s.pc, none⟩ := rfl
@[simp] theorem State.raiseFetch_presents (a : Nat) : (s.raiseFetch a).presents = s.presents := rfl
@[simp] theorem State.raiseFetch_oracleIx (a : Nat) : (s.raiseFetch a).oracleIx = s.oracleIx := rfl
@[simp] theorem State.raiseFetch_reg (a : Nat) (r : RegIdx) : (s.raiseFetch a).reg r = s.reg r := rfl

/-! ### advancePc and elapse -/

@[simp] theorem State.advancePc_v : s.advancePc.v = s.v := rfl
@[simp] theorem State.advancePc_i : s.advancePc.i = s.i := rfl
@[simp] theorem State.advancePc_pc : s.advancePc.pc = s.pc + 2 := rfl
@[simp] theorem State.advancePc_dt : s.advancePc.dt = s.dt := rfl
@[simp] theorem State.advancePc_st : s.advancePc.st = s.st := rfl
@[simp] theorem State.advancePc_stk : s.advancePc.stk = s.stk := rfl
@[simp] theorem State.advancePc_fb : s.advancePc.fb = s.fb := rfl
@[simp] theorem State.advancePc_mem : s.advancePc.mem = s.mem := rfl
@[simp] theorem State.advancePc_stop : s.advancePc.stop = s.stop := rfl
@[simp] theorem State.advancePc_presents : s.advancePc.presents = s.presents := rfl
@[simp] theorem State.advancePc_oracleIx : s.advancePc.oracleIx = s.oracleIx := rfl
@[simp] theorem State.advancePc_reg (r : RegIdx) : s.advancePc.reg r = s.reg r := rfl

@[simp] theorem State.elapse_v : s.elapse.v = s.v := rfl
@[simp] theorem State.elapse_i : s.elapse.i = s.i := rfl
@[simp] theorem State.elapse_pc : s.elapse.pc = s.pc := rfl
@[simp] theorem State.elapse_dt : s.elapse.dt = tickTimes (Config.ticksBefore s.oracleIx) s.dt := rfl
@[simp] theorem State.elapse_st : s.elapse.st = tickTimes (Config.ticksBefore s.oracleIx) s.st := rfl
@[simp] theorem State.elapse_stk : s.elapse.stk = s.stk := rfl
@[simp] theorem State.elapse_fb : s.elapse.fb = s.fb := rfl
@[simp] theorem State.elapse_mem : s.elapse.mem = s.mem := rfl
@[simp] theorem State.elapse_stop : s.elapse.stop = s.stop := rfl
@[simp] theorem State.elapse_presents : s.elapse.presents = s.presents := rfl
@[simp] theorem State.elapse_oracleIx : s.elapse.oracleIx = s.oracleIx + 1 := rfl
@[simp] theorem State.elapse_reg (r : RegIdx) : s.elapse.reg r = s.reg r := rfl
@[simp] theorem State.elapse_fetch : s.elapse.fetch = s.fetch := rfl

end Sys2Proof.Machine
end

