-- ==== Sys2Proof/Laws/Step.lean ====
section
/-! SUPPORT. What a step can do, in one inversion lemma; what a placed opcode is fetched as; what a key query can do. -/

namespace Sys2Proof.Machine

/-- Everything a step with a next state did: it was not stopped, and after the ticks it either stopped in the fetch or executed
the fetched opcode with PC advanced (30_encoding.md R88). -/
theorem step_cases {s t : State} (h : step s = .next t) :
    s.stop = none ∧
      ((∃ address, s.fetch = .error address ∧ t = s.elapse.raiseFetch address) ∨
        ∃ op, s.fetch = .ok op ∧ exec (decode op) s.elapse.advancePc = .next t) := by
  unfold step at h
  cases hs : s.stop with
  | some r => rw [hs] at h; exact Host.Outcome.noConfusion rfl rfl rfl (heq_of_eq h)
  | none =>
    rw [hs] at h
    simp only [State.elapse_fetch] at h
    cases hf : s.fetch with
    | error address => rw [hf] at h; cases h; exact ⟨rfl, .inl ⟨address, rfl, rfl⟩⟩
    | ok op => rw [hf] at h; exact ⟨rfl, .inr ⟨op, rfl, h⟩⟩

/-- Everything a key query can do (44_timers_input.md R150, R151). -/
theorem State.skipOnKey_cases (s : State) (k : Byte) (want : Bool) (i : Instr) :
    (16 ≤ k.toNat ∧ s.skipOnKey k want i = s.raise (.keyOutOfRange k) i) ∨
    ∃ key : Key, key.val = k.toNat ∧
      s.skipOnKey k want i = (s.skipIf (Config.keyDown s.oracleIx key == want)).nextAnswer := by
  unfold State.skipOnKey keyOperand
  by_cases h : k.toNat < Config.numKeys
  · rw [dif_pos h]; exact .inr ⟨_, rfl, rfl⟩
  · rw [dif_neg h]; exact .inl ⟨Nat.le_of_not_lt h, rfl⟩

/-- The PC at which a placed opcode stands has both its bytes. -/
theorem State.placeOpcode_pc (s : State) (op : Opcode) : (s.placeOpcode op).pc.toNat + 1 < Config.memSize := by
  unfold State.placeOpcode
  dsimp only
  split
  next h => exact h
  next => decide

/-- The next step fetches exactly the placed opcode (log 17). -/
theorem State.placeOpcode_fetch (s : State) (op : Opcode) : (s.placeOpcode op).fetch = .ok op := by
  have hpc := s.placeOpcode_pc op
  have hmem : (s.placeOpcode op).mem =
      Memory.writeBytes s.mem (s.placeOpcode op).pc.toNat [highByteOf op, lowByteOf op] := rfl
  rcases (s.placeOpcode op).fetch_cases with ⟨h, -⟩ | ⟨-, h⟩
  · omega
  · rw [h, hmem, Memory.byteAt_writeBytes _ _ _ _ (by simp at hpc ⊢; omega), dif_pos (by simp),
      Memory.byteAt_writeBytes _ _ _ _ (by simp at hpc ⊢; omega), dif_pos (by simp)]
    simp [opcodeOfBytes_bytes]

/-- A step of a state with a table word placed runs the instruction the decoder reads from it. -/
theorem step_withFetchWord (s : State) (nbits w : Nat) :
    step (s.withFetchWord nbits w) =
      exec (decode (tableOpcode nbits w)) (s.withFetchWord nbits w).elapse.advancePc := by
  have hf : (s.withFetchWord nbits w).fetch = .ok (tableOpcode nbits w) := s.placeOpcode_fetch _
  have hs : (s.withFetchWord nbits w).stop = none := rfl
  unfold step
  rw [hs]
  simp only [State.elapse_fetch, hf]

theorem decodeTableWord_eq (nbits w : Nat) : decodeTableWord nbits w = some (decode (tableOpcode nbits w)) := by
  simp [decodeTableWord, bytesOfOpcode, decodeBytes, opcodeOfBytes_bytes]

end Sys2Proof.Machine
end

