-- ==== Sys2Proof/Laws/Ticks.lean ====
section
/-! SUPPORT. Ticks: a timer never rises, n ticks are n times one tick, and what a step's elapse changes. -/

namespace Sys2Proof.Machine

theorem tickTimer_toNat (d : Byte) : (tickTimer d).toNat = d.toNat - 1 := by
  unfold tickTimer
  split
  next h => subst h; rfl
  next h =>
    have : d.toNat ≠ 0 := fun e => h (BitVec.eq_of_toNat_eq e)
    have h1 : (1#8).toNat ≤ d.toNat := by change 1 ≤ d.toNat; omega
    exact BitVec.toNat_sub_of_le h1

/-- Saturation at zero (60_exceptions.md R177). -/
theorem tickTimes_toNat (n : Nat) (d : Byte) : (tickTimes n d).toNat = d.toNat - n := by
  induction n generalizing d with
  | zero => rfl
  | succ n ih => rw [tickTimes, ih, tickTimer_toNat]; omega

theorem tickTimes_le (n : Nat) (d : Byte) : (tickTimes n d).toNat ≤ d.toNat := by
  rw [tickTimes_toNat]; omega

theorem State.ticks_zero (s : State) : s.ticks 0 = s := rfl

theorem State.ticks_succ (s : State) (n : Nat) : s.ticks (n + 1) = s.tick.ticks n := rfl

end Sys2Proof.Machine
end

