-- ==== Sys2Proof/Tests/Slice0.lean ====
section
/-! SUPPORT. The model's own tests: words from the encodings of 30_encoding.md R90, one step per vector of 95_test_vectors.md, the
refusals of WellFormed, and a witness for every statement with hypotheses. -/

namespace Sys2Proof.Tests

open Sys2Proof.Machine

/-! ## WellFormed refuses a no-op that carries a matched opcode (30_encoding.md R87, R90) -/

theorem test_wf_refuses_clear_as_noop : (Instr.noop 0x00E0#16).wf = false := by decide
theorem test_wf_refuses_jump_as_noop : (Instr.noop 0x1234#16).wf = false := by decide
theorem test_wf_refuses_add_as_noop : (Instr.noop 0x8AB4#16).wf = false := by decide
theorem test_wf_refuses_key_skip_as_noop : (Instr.noop 0xE09E#16).wf = false := by decide
theorem test_wf_refuses_load_regs_as_noop : (Instr.noop 0xF065#16).wf = false := by decide
theorem test_wf_accepts_sys_as_noop : (Instr.noop 0x0123#16).wf = true := by decide

/-! ## Decoding: every constructor, its word written bit by bit from the encoding column of R90 -/

theorem test_decode_control :
    decode 0b0000_0000_1110_1110#16 = .ret 0x0#4 ∧ decode 0b0001_1010_1011_1100#16 = .jump 0xABC#12 ∧
    decode 0b0010_0011_0000_0001#16 = .call 0x301#12 ∧ decode 0b0011_1010_0000_0101#16 = .skipEq 0xA 0x05#8 ∧
    decode 0b0100_1010_0000_0101#16 = .skipNe 0xA 0x05#8 ∧
    decode 0b0101_1010_1011_0111#16 = .skipEqReg 0xA 0xB 0x7#4 ∧
    decode 0b1001_1010_1011_0001#16 = .skipNeReg 0xA 0xB 0x1#4 ∧
    decode 0b1011_1010_0000_0011#16 = .jumpPlusV0 0xA03#12 := by decide

theorem test_decode_loads_and_alu :
    decode 0b0110_1010_0111_1111#16 = .load 0xA 0x7F#8 ∧ decode 0b0111_1010_1111_1111#16 = .addImm 0xA 0xFF#8 ∧
    decode 0b1000_1010_1011_0000#16 = .move 0xA 0xB ∧ decode 0b1000_1010_1011_0001#16 = .or 0xA 0xB ∧
    decode 0b1000_1010_1011_0010#16 = .and 0xA 0xB ∧ decode 0b1000_1010_1011_0011#16 = .xor 0xA 0xB ∧
    decode 0b1000_1010_1011_0100#16 = .add 0xA 0xB ∧ decode 0b1000_1010_1011_0101#16 = .sub 0xA 0xB ∧
    decode 0b1000_1010_1011_0110#16 = .shr 0xA 0xB ∧ decode 0b1000_1010_1011_0111#16 = .subn 0xA 0xB ∧
    decode 0b1000_1010_1011_1110#16 = .shl 0xA 0xB ∧ decode 0b1100_1010_0000_1111#16 = .rand 0xA 0x0F#8 := by decide

theorem test_decode_index_and_memory :
    decode 0b1010_0001_0010_0011#16 = .loadI 0x123#12 ∧ decode 0b1111_0101_0001_1110#16 = .addI 0x5 ∧
    decode 0b1111_0101_0010_1001#16 = .loadFontAddr 0x5 ∧ decode 0b1111_0101_0011_0011#16 = .storeBcd 0x5 ∧
    decode 0b1111_0011_0101_0101#16 = .storeRegs 0x3 ∧ decode 0b1111_0101_0110_0101#16 = .loadRegs 0x5 := by decide

theorem test_decode_display :
    decode 0b0000_1010_1110_0000#16 = .clear 0xA#4 ∧ decode 0b1101_0001_0010_0101#16 = .draw 0x1 0x2 0x5#4 := by decide

theorem test_decode_timers_and_input :
    decode 0b1110_0101_1001_1110#16 = .skipKeyPressed 0x5 ∧ decode 0b1110_0101_1010_0001#16 = .skipKeyNotPressed 0x5 ∧
    decode 0b1111_0101_0000_0111#16 = .loadDelay 0x5 ∧ decode 0b1111_0101_0000_1010#16 = .waitKey 0x5 ∧
    decode 0b1111_0101_0001_0101#16 = .storeDelay 0x5 ∧ decode 0b1111_0101_0001_1000#16 = .storeSound 0x5 := by decide

/-- The vectors DE1, DE2, DE6, DE9, DE11 and DE12. -/
theorem test_decode_unmatched :
    [0x0000#16, 0x0123#16, 0x00E1#16, 0x8AB8#16, 0x8AB9#16, 0x8ABA#16, 0x8ABB#16, 0x8ABC#16, 0x8ABD#16, 0x8ABF#16,
      0xE09F#16, 0xE0A0#16, 0xE000#16, 0xF0FF#16, 0xF575#16, 0xF000#16].all (fun op => decode op == .noop op) = true := by
  decide

theorem test_table_word : decodeTableWord 16 0x8AB4 = some (.add 0xA 0xB) := by decide

/-! ## One step at a time

`base` is a state with every register 0 but I = 0x300; `run op s` is the state a step with `op` placed at PC gives. -/

def base : State :=
  { State.reset with v := Vector.replicate 16 0, i := 0x300#16, dt := 0x3C#8, st := 5#8 }

def withRegs (s : State) (rs : List (RegIdx × Byte)) : State :=
  rs.foldl (fun s r => s.setV r.1 r.2) s

def run (op : Opcode) (s : State) : Option State :=
  match step (s.placeOpcode op) with
  | .next t => some t
  | .fault _ => none
  | .refused _ => none

/-- A register and VF of an outcome. -/
def regAndVf (t : Option State) (x : RegIdx) : Option (Byte × Byte) := t.map fun t => (t.reg x, t.reg 0xF)

def pcOf (t : Option State) : Option Addr := t.map fun t => t.pc

def stopOf (t : Option State) : Option (Option StopRecord) := t.map fun t => t.stop

/-- Bytes of an outcome's memory from an address on, as far as they were written. -/
def writtenFrom (t : Option State) (a n : Nat) : Option (List (Option Byte)) :=
  t.map fun t => (List.range n).map fun k => Memory.lookup t.mem (a + k)

/-- Eight pixels of an outcome's row. -/
def pixelsFrom (t : Option State) (cx : Nat) (cy : Fin 32) : Option (List Bool) :=
  t.map fun t => (List.range 8).map fun k => if h : cx + k < 64 then pixel t.fb ⟨cx + k, h⟩ cy else false

/-! ### The instruction cycle: FE1 to FE6 -/

theorem test_fetch_at_odd_pc :
    (run 0x6A05#16 (base.setPc 0x201#16)).map (fun t => (t.reg 0xA, t.pc)) = some (0x05#8, 0x203#16) := by decide
theorem test_fetch_last_two_bytes : pcOf (run 0x6A05#16 (base.setPc 0xFFD#16)) = some 0xFFF#16 := by decide
theorem test_fetch_at_FFE_stops :
    (match step (base.setPc 0xFFE#16) with | .next t => some (t.stop, t.pc) | .fault _ => none | .refused _ => none) =
      some (some ⟨.memoryOutOfRange 0xFFF, 0xFFE#16, none⟩, 0xFFE#16) := by decide
theorem test_fetch_at_10FE_stops :
    (match step (base.setPc 0x10FE#16) with | .next t => some t.stop | .fault _ => none | .refused _ => none) =
      some (some ⟨.memoryOutOfRange 0x10FE, 0x10FE#16, none⟩) := by decide
theorem test_fetch_is_big_endian :
    (match ({ base with mem := [(0x200, 0x12#8), (0x201, 0x34#8)] } : State).fetch with
      | .ok op => some op | .error _ => none) = some 0x1234#16 := by decide

/-! ### Control flow: CF1 to CF18 -/

def stackOf (l : List Addr) : CallStack :=
  l.foldl (fun k a => (k.push a).getD k) { slots := Vector.replicate 15 0, sp := 0, empty := true }

theorem test_jump : pcOf (run 0x1ABC#16 base) = some 0xABC#16 := by decide
theorem test_call :
    (run 0x2300#16 (base.setStk (stackOf []))).map (fun t => (t.stk.toList, t.pc)) =
      some ([0x202#16], 0x300#16) := by decide
theorem test_call_with_15_entries_stops :
    (run 0x2300#16 (base.setStk (stackOf (List.replicate 15 0x202#16)))).map (fun t => (t.stop, t.stk.len, t.pc)) =
      some (some ⟨.stackOverflow 0x202#16, 0x200#16, some 0x2300#16⟩, 15, 0x202#16) := by decide
theorem test_return :
    (run 0x00EE#16 (base.setStk (stackOf [0x208#16, 0x206#16]))).map (fun t => (t.stk.toList, t.pc)) =
      some ([0x208#16], 0x206#16) := by decide
theorem test_return_on_empty_stops :
    (run 0x0FEE#16 (base.setStk (stackOf []))).map (fun t => (t.stop, t.pc)) =
      some (some ⟨.stackUnderflow, 0x200#16, some 0x0FEE#16⟩, 0x202#16) := by decide
theorem test_skip_eq : pcOf (run 0x3A05#16 (base.setV 0xA 0x05#8)) = some 0x204#16 := by decide
theorem test_skip_eq_not_taken : pcOf (run 0x3A05#16 (base.setV 0xA 0x06#8)) = some 0x202#16 := by decide
theorem test_skip_ne : pcOf (run 0x4A05#16 (base.setV 0xA 0x06#8)) = some 0x204#16 := by decide
theorem test_skip_ne_not_taken : pcOf (run 0x4A05#16 (base.setV 0xA 0x05#8)) = some 0x202#16 := by decide
theorem test_skip_eq_reg : pcOf (run 0x5AB0#16 (withRegs base [(0xA, 0x11#8), (0xB, 0x11#8)])) = some 0x204#16 := by decide
theorem test_skip_eq_reg_not_taken :
    pcOf (run 0x5AB7#16 (withRegs base [(0xA, 0x11#8), (0xB, 0x12#8)])) = some 0x202#16 := by decide
theorem test_skip_ne_reg : pcOf (run 0x9AB0#16 (withRegs base [(0xA, 0x11#8), (0xB, 0x12#8)])) = some 0x204#16 := by decide
theorem test_skip_ne_reg_same : pcOf (run 0x9AA0#16 (base.setV 0xA 0x11#8)) = some 0x202#16 := by decide
theorem test_jump_plus_v0 : pcOf (run 0xBFFF#16 (base.setV 0x0 0xFF#8)) = some 0x10FE#16 := by decide
theorem test_jump_plus_v0_base_is_v0 :
    pcOf (run 0xBA00#16 (withRegs base [(0x0, 0x01#8), (0xA, 0x50#8)])) = some 0xA01#16 := by decide
theorem test_noop : pcOf (run 0x0123#16 base) = some 0x202#16 := by decide

/-! ### ALU: AL1 to AL32 -/

theorem test_load : regAndVf (run 0x6A7F#16 (base.setV 0xF 0x55#8)) 0xA = some (0x7F#8, 0x55#8) := by decide
theorem test_add_imm_no_flag :
    regAndVf (run 0x7AFF#16 (withRegs base [(0xA, 0x01#8), (0xF, 0x55#8)])) 0xA = some (0x00#8, 0x55#8) := by decide
theorem test_add_imm_to_vf : regAndVf (run 0x7F01#16 (base.setV 0xF 0xFF#8)) 0xF = some (0x00#8, 0x00#8) := by decide
theorem test_move : regAndVf (run 0x8AB0#16 (base.setV 0xB 0x12#8)) 0xA = some (0x12#8, 0x00#8) := by decide
theorem test_or :
    regAndVf (run 0x8AB1#16 (withRegs base [(0xA, 0xF0#8), (0xB, 0x0F#8), (0xF, 0x55#8)])) 0xA =
      some (0xFF#8, 0x55#8) := by decide
theorem test_and : regAndVf (run 0x8AB2#16 (withRegs base [(0xA, 0xF0#8), (0xB, 0x3C#8)])) 0xA = some (0x30#8, 0#8) := by decide
theorem test_xor : regAndVf (run 0x8AB3#16 (withRegs base [(0xA, 0xFF#8), (0xB, 0x0F#8)])) 0xA = some (0xF0#8, 0#8) := by decide
theorem test_add_carry :
    regAndVf (run 0x8AB4#16 (withRegs base [(0xA, 0xFF#8), (0xB, 0x01#8)])) 0xA = some (0x00#8, 1#8) := by decide
theorem test_add_into_vf_keeps_the_flag :
    regAndVf (run 0x8FA4#16 (withRegs base [(0xF, 0xFF#8), (0xA, 0x01#8)])) 0xF = some (1#8, 1#8) := by decide
theorem test_sub_borrow :
    regAndVf (run 0x8AB5#16 (withRegs base [(0xA, 0x00#8), (0xB, 0x01#8)])) 0xA = some (0xFF#8, 0#8) := by decide
theorem test_sub_equal :
    regAndVf (run 0x8AB5#16 (withRegs base [(0xA, 0x05#8), (0xB, 0x05#8)])) 0xA = some (0x00#8, 1#8) := by decide
theorem test_shr_ignores_vy :
    regAndVf (run 0x8AB6#16 (withRegs base [(0xA, 0x01#8), (0xB, 0x80#8)])) 0xA = some (0x00#8, 1#8) := by decide
theorem test_shr_vf : regAndVf (run 0x8FF6#16 (base.setV 0xF 0x03#8)) 0xF = some (1#8, 1#8) := by decide
theorem test_subn :
    regAndVf (run 0x8AB7#16 (withRegs base [(0xA, 0x03#8), (0xB, 0x07#8)])) 0xA = some (0x04#8, 1#8) := by decide
theorem test_subn_borrow :
    regAndVf (run 0x8AB7#16 (withRegs base [(0xA, 0x07#8), (0xB, 0x03#8)])) 0xA = some (0xFC#8, 0#8) := by decide
theorem test_shl_55 : regAndVf (run 0x8ABE#16 (base.setV 0xA 0x55#8)) 0xA = some (0xAA#8, 0#8) := by decide
theorem test_shl_C1 : regAndVf (run 0x8ABE#16 (base.setV 0xA 0xC1#8)) 0xA = some (0x82#8, 1#8) := by decide
/-- AL31: whatever the random byte, nn = 0xFF gives 0xFF. -/
theorem test_rand_all_ones : ((run 0xCAFF#16 base).map fun t => t.reg 0xA) = some 0xFF#8 := by
  refine congrArg some ?_
  change 0xFF#8 ||| Config.randByte 1 = 0xFF#8
  exact BitVec.allOnes_or

/-! ### Index register and memory: IM1 to IM15 -/

theorem test_load_i : (run 0xA123#16 base).map (fun t => t.i) = some 0x123#16 := by decide
theorem test_add_i_passes_12_bits :
    (run 0xF51E#16 ((base.setI 0x0FFF#16).setV 0x5 1#8)).map (fun t => t.i) = some 0x1000#16 := by decide
theorem test_add_i_wraps_at_16_bits :
    (run 0xF51E#16 ((base.setI 0xFFFF#16).setV 0x5 2#8)).map (fun t => t.i) = some 0x0001#16 := by decide
theorem test_load_font_addr : (run 0xF529#16 (base.setV 0x5 0x0A#8)).map (fun t => t.i) = some 0x082#16 := by decide
theorem test_load_font_addr_unmasked : (run 0xF529#16 (base.setV 0x5 0xFF#8)).map (fun t => t.i) = some 0x54B#16 := by decide
theorem test_store_bcd :
    writtenFrom (run 0xF533#16 (base.setV 0x5 198#8)) 0x300 4 = some [some 1#8, some 9#8, some 8#8, none] := by decide
theorem test_store_bcd_out_of_range :
    (run 0xF533#16 (base.setI 0xFFD#16)).map (fun t => (t.stop, Memory.lookup t.mem 0xFFD)) =
      some (some ⟨.memoryOutOfRange 0xFFF, 0x200#16, some 0xF533#16⟩, none) := by decide
theorem test_store_regs :
    writtenFrom (run 0xF355#16 (withRegs base [(0, 1#8), (1, 2#8), (2, 3#8), (3, 4#8)])) 0x300 5 =
      some [some 1#8, some 2#8, some 3#8, some 4#8, none] := by decide
theorem test_store_regs_out_of_range :
    stopOf (run 0xF055#16 (base.setI 0x1000#16)) =
      some (some ⟨.memoryOutOfRange 0x1000, 0x200#16, some 0xF055#16⟩) := by decide
theorem test_load_regs :
    (run 0xF265#16 (base.setMem [(0x300, 1#8), (0x301, 9#8), (0x302, 8#8)])).map (fun t => (t.reg 0, t.reg 1, t.reg 2, t.i)) =
      some (1#8, 9#8, 8#8, 0x300#16) := by decide
theorem test_load_regs_out_of_range :
    stopOf (run 0xF165#16 (base.setI 0xFFE#16)) =
      some (some ⟨.memoryOutOfRange 0xFFF, 0x200#16, some 0xF165#16⟩) := by decide

/-! ### Display: DR1 to DR14 -/

theorem test_compose_table :
    [(false, false), (false, true), (true, false), (true, true)].map (fun p =>
      let r := compose p.2 0 0 (setPixel blankFramebuffer 0 0 p.1)
      (pixel r.1 0 0, r.2)) = [(false, true), (true, false), (true, false), (false, true)] := by decide
theorem test_draw_wraps_the_origin_and_clips :
    (fun t : Option State => (pixelsFrom t 3 0, pixelsFrom t 56 0, t.map fun t => t.reg 0xF))
      (run 0xD121#16 (withRegs (base.setMem [(0x300, 0xFF#8)]) [(1, 67#8)])) =
      (some [true, true, true, true, true, true, true, true], some [false, false, false, false, false, false, false, false],
        some 0#8) := by decide
theorem test_draw_zero_bits_collide :
    (fun t : Option State => (pixelsFrom t 0 0, t.map fun t => (t.reg 0xF, t.presents.length)))
      (run 0xD121#16 (base.setMem [(0x300, 0x80#8)])) =
      (some [true, false, false, false, false, false, false, false], some (1#8, 2)) := by decide
theorem test_draw_out_of_range :
    (run 0xD122#16 ((base.setI 0xFFE#16).setV 0xF 0x55#8)).map (fun t => (t.stop, t.reg 0xF, t.presents.length)) =
      some (some ⟨.memoryOutOfRange 0xFFF, 0x200#16, some 0xD122#16⟩, 0x55#8, 1) := by decide
theorem test_clear :
    (run 0x00E0#16 ((base.setFB (setPixel blankFramebuffer 5 6 true)).setV 0xF 0x55#8)).map
      (fun t => (pixel t.fb 5 6, t.reg 0xF, t.presents.length)) = some (false, 0x55#8, 2) := by decide

/-! ### Timers and input: TI1 to TI11 -/

/-- TI1, at exec, since a step may tick DT first. -/
theorem test_load_delay :
    (match exec (.loadDelay 0x5) base with | .next t => some (t.reg 0x5) | .fault _ => none | .refused _ => none) =
      some 0x3C#8 := by decide
theorem test_store_delay : (run 0xF515#16 (base.setV 0x5 0x10#8)).map (fun t => t.dt) = some 0x10#8 := by decide
theorem test_store_sound : (run 0xF518#16 (base.setV 0x5 0x10#8)).map (fun t => (t.st, t.soundOn)) = some (0x10#8, true) := by
  decide
theorem test_tick : ((base.setDT 1#8).tick.dt, (base.setDT 0#8).tick.dt, base.tick.st) = (0#8, 0#8, 4#8) := by decide
theorem test_skip_key_pressed :
    pcOf (run 0xE59E#16 (base.setV 0x5 3#8)) = some (if Config.keyDown 1 3 then 0x204#16 else 0x202#16) := by
  refine congrArg some ?_
  change (State.skipIf _ (Config.keyDown 1 3 == true)).pc = _
  cases Config.keyDown 1 3 <;> rfl
theorem test_skip_key_pressed_out_of_range :
    stopOf (run 0xE59E#16 (base.setV 0x5 0x10#8)) = some (some ⟨.keyOutOfRange 0x10#8, 0x200#16, some 0xE59E#16⟩) := by decide
theorem test_skip_key_not_pressed :
    pcOf (run 0xE5A1#16 (base.setV 0x5 3#8)) = some (if Config.keyDown 1 3 then 0x202#16 else 0x204#16) := by
  refine congrArg some ?_
  change (State.skipIf _ (Config.keyDown 1 3 == false)).pc = _
  cases Config.keyDown 1 3 <;> rfl
theorem test_skip_key_not_pressed_out_of_range :
    stopOf (run 0xE5A1#16 (base.setV 0x5 0xFF#8)) = some (some ⟨.keyOutOfRange 0xFF#8, 0x200#16, some 0xE5A1#16⟩) := by decide
theorem test_wait_key :
    (run 0xF50A#16 base).map (fun t => (t.reg 0x5, t.pc)) =
      some (match Config.pressedKey 1 with | none => (0#8, 0x200#16) | some k => (BitVec.ofNat 8 k.val, 0x202#16)) := by
  refine congrArg some ?_
  change ((match Config.pressedKey 1 with | none => _ | some k => _ : State).reg 0x5,
    (match Config.pressedKey 1 with | none => _ | some k => _ : State).pc) = _
  cases Config.pressedKey 1 <;> rfl

/-! ### A stopped core, the loader -/

theorem test_stopped_core_has_no_step :
    step (base.latch ⟨.stackUnderflow, 0x200#16, some 0x00EE#16⟩) = .fault (.stopped ⟨.stackUnderflow, 0x200#16, some 0x00EE#16⟩) :=
  rfl
theorem test_load_program :
    (State.reset.loadProgram [0x60#8, 0x12#8]).map (fun t => (Memory.lookup t.mem 0x200, Memory.lookup t.mem 0x201)) =
      some (some 0x60#8, some 0x12#8) := by decide

/-- Glyph d of the recommended font is read through load-font-addr: glyph 0xA begins with F0 90. -/
theorem test_recommended_font :
    (fun s : State => (Memory.lookup s.mem 0x050, Memory.lookup s.mem 0x082, Memory.lookup s.mem 0x083, Memory.lookup s.mem 0x09F,
      Memory.lookup s.mem 0x0A0)) (State.reset.loadFont ⟨recommendedFont.toArray, rfl⟩) =
      (some 0xF0#8, some 0xF0#8, some 0x90#8, some 0x80#8, none) := by decide

/-! ## The assembler syntax: the spellings of R94 -/

theorem test_asm_text :
    [Instr.clear 0xA#4, .jump 0xABC#12, .skipEq 0xA 0x05#8, .shr 0xA 0xB, .draw 1 2 15#4, .waitKey 0xF].map
      (fun i => (disassemble i).map AsmLine.text) =
      [some "clear", some "jump 0xABC", some "skip-eq VA,0x05", some "shr VA,VB", some "draw V1,V2,15",
        some "wait-key VF"] := by decide
theorem test_asm_from_text :
    ["return", "jump-plus-v0 0xFFF", "add-imm VF,0x0a", "draw V0,VE,10", "LD [I],V3", "ADD I,V5", "shl VA", "nop"].map assembleText =
      [some (.ret 0#4), some (.jumpPlusV0 0xFFF#12), some (.addImm 0xF 0x0A#8), some (.draw 0 0xE 10#4), some (.storeRegs 3),
        some (.addI 5), some (.shl 0xA 0), none] := by decide
theorem test_asm_shr_without_vy : assemble ⟨"shr", [.reg 0xA]⟩ = some (.shr 0xA 0) := by decide
theorem test_asm_alias :
    [(⟨"CLS", []⟩ : AsmLine), ⟨"JP", [.reg 0, .addr 0x300#12]⟩, ⟨"LD", [.atI, .reg 3]⟩, ⟨"SNE", [.reg 1, .reg 2]⟩].map assembleAlias =
      [some (.clear 0#4), some (.jumpPlusV0 0x300#12), some (.storeRegs 3), some (.skipNeReg 1 2 0#4)] := by decide

/-! ## Witnesses: a state and operands that meet all hypotheses of a statement, one for each clause, at the ends of ranges

`witness_X` is for `Obligations.X`. -/

theorem witness_DecodeOfEncodeIsIdentity :
    (Instr.noop 0x0123#16).wf = true ∧ (Instr.draw 0xF 0xF 0xF#4).wf = true := by decide

theorem witness_OpcodeMapSelectsTheOperation :
    (∃ (op : Opcode) (x y : RegIdx) (hi n : Nibble) (nn : Byte) (nnn : BitVec 12),
      x = (op.extractLsb' 8 4).toFin ∧ y = (op.extractLsb' 4 4).toFin ∧ hi = op.extractLsb' 8 4 ∧ n = op.extractLsb' 0 4 ∧
      nn = op.extractLsb' 0 8 ∧ nnn = op.extractLsb' 0 12 ∧ op &&& 0xF0FF#16 = 0xF065#16) ∧
    ∃ op : Opcode, op &&& 0xF000#16 ∉ [0x1000#16, 0x2000#16, 0x3000#16, 0x4000#16, 0x5000#16, 0x6000#16, 0x7000#16, 0x9000#16,
        0xA000#16, 0xB000#16, 0xC000#16, 0xD000#16] ∧
      op &&& 0xF00F#16 ∉ [0x8000#16, 0x8001#16, 0x8002#16, 0x8003#16, 0x8004#16, 0x8005#16, 0x8006#16, 0x8007#16, 0x800E#16] ∧
      op &&& 0xF0FF#16 ∉ [0x00E0#16, 0x00EE#16, 0xE09E#16, 0xE0A1#16, 0xF007#16, 0xF00A#16, 0xF015#16, 0xF018#16, 0xF01E#16,
        0xF029#16, 0xF033#16, 0xF055#16, 0xF065#16] :=
  ⟨⟨0xFF65#16, _, _, _, _, _, _, rfl, rfl, rfl, rfl, rfl, rfl, by decide⟩, 0x8AB8#16, by decide, by decide, by decide⟩

theorem witness_UnmatchedOpcodesAreNoOps :
    ∃ (op : Opcode) (c n : Nibble) (nn : Byte), c = op.extractLsb' 12 4 ∧ n = op.extractLsb' 0 4 ∧ nn = op.extractLsb' 0 8 :=
  ⟨0xF0FF#16, _, _, _, rfl, rfl, rfl⟩

theorem witness_DecodeConsumesTwoBytes : ([] : List Byte).length < 2 ∧ [0x12#8].length < 2 := by decide

/-- A state of STOP none at each side of the fetch's range check, and a stopped one. -/
theorem witness_StepIsFetchAdvanceExecute :
    (base.latch ⟨.stackUnderflow, 0x200#16, some 0x00EE#16⟩).stop = some ⟨.stackUnderflow, 0x200#16, some 0x00EE#16⟩ ∧
    ((base.setPc 0xFFF#16).stop = none ∧ 4095 ≤ (base.setPc 0xFFF#16).pc.toNat) ∧
    ((base.setPc 0xFFE#16).stop = none ∧ (base.setPc 0xFFE#16).pc.toNat < 4095 ∧ 4095 ≤ (base.setPc 0xFFE#16).pc.toNat + 1) ∧
    ((base.setPc 0xFFD#16).stop = none ∧ (base.setPc 0xFFD#16).pc.toNat + 1 < 4095) := by decide

/-- A store-delay V5 at 0x200 and a load-delay V6 at 0x202. -/
def delayProgram : State :=
  { base with mem := [(0x200, 0xF5#8), (0x201, 0x15#8), (0x202, 0xF6#8), (0x203, 0x07#8)] }

theorem witness_LoadDelayAfterStoreDelayNeverLarger :
    ∃ (s t u : State) (op op' : Opcode) (x y : RegIdx), s.fetch = .ok op ∧ decode op = .storeDelay x ∧ step s = .next t ∧
      t.fetch = .ok op' ∧ decode op' = .loadDelay y ∧ step t = .next u :=
  ⟨delayProgram, _, _, 0xF515#16, 0xF607#16, 5, 6, rfl, by decide, rfl, rfl, by decide, rfl⟩

theorem witness_StoppingInstructionChangesNothingElse :
    (∃ (i : Instr) (s t : State) (r : StopRecord), s.stop = none ∧ exec i s = .next t ∧ t.stop = some r) ∧
    (∃ (s t : State) (r : StopRecord), step s = .next t ∧ t.stop = some r ∧ r.opcode = some 0xF533#16) ∧
    ∃ (s t : State) (r : StopRecord), step s = .next t ∧ t.stop = some r ∧ r.opcode = none :=
  ⟨⟨.ret 0#4, base, _, _, rfl, rfl, rfl⟩, ⟨(base.setI 0xFFD#16).placeOpcode 0xF533#16, _, _, rfl, rfl, rfl⟩,
    base.setPc 0xFFE#16, _, _, rfl, rfl, rfl⟩

theorem witness_OnlyListedInstructionsStop_stackOverflow :
    ∃ (s t : State) (r : StopRecord), s.stop = none ∧ exec (.call 0x300#12) s = .next t ∧ t.stop = some r ∧
      r.cause = .stackOverflow 0x200#16 :=
  ⟨base.setStk (stackOf (List.replicate 15 0x202#16)), _, _, rfl, rfl, rfl, rfl⟩

theorem witness_OnlyListedInstructionsStop_stackUnderflow :
    ∃ (s t : State) (r : StopRecord), s.stop = none ∧ exec (.ret 0xF#4) s = .next t ∧ t.stop = some r ∧
      r.cause = .stackUnderflow :=
  ⟨base, _, _, rfl, rfl, rfl, rfl⟩

theorem witness_OnlyListedInstructionsStop_memoryOutOfRange :
    ∃ (s t : State) (r : StopRecord), s.stop = none ∧ exec (.draw 0 0 1#4) s = .next t ∧ t.stop = some r ∧
      r.cause = .memoryOutOfRange 4095 :=
  ⟨base.setI 0xFFF#16, _, _, rfl, rfl, rfl, rfl⟩

theorem witness_OnlyListedInstructionsStop_keyOutOfRange :
    ∃ (s t : State) (r : StopRecord), s.stop = none ∧ exec (.skipKeyNotPressed 5) s = .next t ∧ t.stop = some r ∧
      r.cause = .keyOutOfRange 16#8 :=
  ⟨base.setV 5 16#8, _, _, rfl, rfl, rfl, rfl⟩

theorem base_inv : base.Inv :=
  ⟨by decide, ⟨fun _ => rfl, fun a h => by cases h⟩, rfl, fun r h => by cases h⟩

/-- At the highest PC of R33, and at the highest PC from which an opcode is fetched. -/
theorem witness_StepKeepsTheInvariant :
    (∃ s t : State, s.Inv ∧ step s = .next t ∧ t.stop ≠ none) ∧ ∃ s t : State, s.Inv ∧ step s = .next t ∧ t.stop = none :=
  ⟨⟨base.setPc 0x10FE#16, _, ⟨by decide, base_inv.stack, rfl, fun r h => by cases h⟩, rfl, nofun⟩,
    (base.setPc 0xFFD#16).placeOpcode 0xBFFF#16, _,
      ⟨by decide, base_inv.stack, by decide, fun r h => by cases h⟩, rfl, rfl⟩

theorem witness_LoadedMemoryHoldsFontAndProgram :
    0xDFF < (List.replicate 0xE00 0#8).length ∧ (List.replicate 0xDFF 0#8).length ≤ 0xDFF ∧
    (∃ k, k < 80 ∧ 0x050 + k = 0x09F) ∧ (∃ k, k < (List.replicate 0xDFF 0#8).length ∧ 0x200 + k = 0xFFE) ∧
    (∃ a, a < 4095 ∧ ¬(0x050 ≤ a ∧ a < 0x050 + 80) ∧ ¬(0x200 ≤ a ∧ a < 0x200 + (List.replicate 0xDFF 0#8).length) ∧ a = 0x1FF) := by
  simp only [List.length_replicate]
  exact ⟨by decide, by decide, ⟨79, by decide⟩, ⟨0xDFE, by decide⟩, 0x1FF, by decide⟩

theorem witness_StackIsABoundedList :
    (stackOf (List.replicate 15 0x202#16)).push 0x204#16 = none ∧
    (∃ k', (stackOf (List.replicate 14 0x202#16)).push 0x204#16 = some k') ∧ (stackOf []).pop = none ∧
    ∃ v k', (stackOf [0x202#16]).pop = some (v, k') :=
  ⟨by decide, ⟨_, rfl⟩, by decide, _, _, rfl⟩

theorem witness_PopAfterPushRestores :
    (∃ k', ((stackOf []).empty = true → (stackOf []).sp = 0) ∧ (stackOf []).push 0x204#16 = some k') ∧
    ∃ k k' : CallStack, k = stackOf (List.replicate 14 0x202#16) ∧ (k.empty = true → k.sp = 0) ∧ k.push 0x204#16 = some k' :=
  ⟨⟨_, fun _ => rfl, rfl⟩, _, _, rfl, by decide, rfl⟩

/-- An instruction that a clause of the frame is about: none of the write sets but the stored bytes contains it. -/
theorem witness_InstructionsChangeOnlyWhatTheirRuleNames :
    ∃ t, exec (.storeRegs 0xF) (base.setI 0xFEF#16) = .next t ∧ ¬writesReg (.storeRegs 0xF) 0xF ∧
      ¬storesTo (.storeRegs 0xF) (base.setI 0xFEF#16) 0xFEE ∧ storesTo (.storeRegs 0xF) (base.setI 0xFEF#16) 0xFFE :=
  ⟨_, rfl, id, by unfold storesTo; decide, by unfold storesTo; decide⟩

theorem witness_CallPushesTheReturnAddress :
    (base.setStk (stackOf (List.replicate 14 0x202#16))).stk.toList.length < 15 ∧
    (base.setStk (stackOf (List.replicate 15 0x202#16))).stk.toList.length = 15 := by decide

theorem witness_ReturnPopsIntoPc :
    (base.setStk (stackOf [0x206#16])).stk.toList = [] ++ [0x206#16] ∧
    (base.setStk (stackOf (List.replicate 15 0x202#16))).stk.toList = List.replicate 14 0x202#16 ++ [0x202#16] ∧
    (base.setStk (stackOf [])).stk.toList = [] := by decide

theorem witness_IdleJumpChangesOnlyTheTimers :
    (base.placeOpcode 0x1200#16).stop = none ∧ (base.placeOpcode 0x1200#16).idle = true ∧
    ((base.setPc 0xFFD#16).placeOpcode 0x1FFD#16).idle = true := by decide

/-- The carry at 255 + 0 and 255 + 1, the not-borrow at equal operands and one below. -/
theorem witness_AddAndSubtractSetVfToCarryOrNotBorrow :
    (∃ a b : Nat, a = ((withRegs base [(0xA, 0xFF#8), (0xB, 1#8)]).reg 0xA).toNat ∧
      b = ((withRegs base [(0xA, 0xFF#8), (0xB, 1#8)]).reg 0xB).toNat ∧ a + b = 256) ∧
    ∃ a b : Nat, a = ((withRegs base [(0xA, 0xFF#8)]).reg 0xA).toNat ∧ b = ((withRegs base [(0xA, 0xFF#8)]).reg 0xA).toNat ∧
      b ≤ a :=
  ⟨⟨_, _, rfl, rfl, by decide⟩, _, _, rfl, rfl, Nat.le_refl _⟩

theorem witness_ReverseSubtractSetsVfToNotBorrow :
    ∃ a b : Nat, a = ((base.setV 0xA 1#8).reg 0xA).toNat ∧ b = ((base.setV 0xA 1#8).reg 0xB).toNat ∧ ¬a ≤ b :=
  ⟨_, _, rfl, rfl, by decide⟩

theorem witness_ShiftsSetVfToTheBitShiftedOut : ∃ a : Nat, a = ((base.setV 0xF 0x81#8).reg 0xF).toNat ∧ a = 129 :=
  ⟨_, rfl, by decide⟩

theorem witness_StoreBcdWritesThreeDigits :
    (∃ v : Nat, v = ((base.setI 0xFFC#16).reg 5).toNat ∧ (base.setI 0xFFC#16).i.toNat + 2 < 4095) ∧
    4095 ≤ (base.setI 0xFFD#16).i.toNat + 2 ∧ 4095 ≤ (base.setI 0xFFFF#16).i.toNat + 2 :=
  ⟨⟨_, rfl, by decide⟩, by decide, by decide⟩

theorem witness_StoreRegsWritesVZeroToVx :
    (base.setI 0xFEF#16).i.toNat + (0xF : RegIdx).val < 4095 ∧ 4095 ≤ (base.setI 0xFF0#16).i.toNat + (0xF : RegIdx).val := by
  decide

theorem witness_LoadRegsReadsVZeroToVx :
    (base.setI 0xFFE#16).i.toNat + (0 : RegIdx).val < 4095 ∧ 4095 ≤ (base.setI 0xFFE#16).i.toNat + (1 : RegIdx).val ∧
    (∃ r : RegIdx, r ≤ (3 : RegIdx)) ∧ ∃ r : RegIdx, ¬r ≤ (3 : RegIdx) :=
  ⟨by decide, by decide, ⟨3, by decide⟩, 4, by decide⟩

theorem witness_LoadRegsInvertsStoreRegs :
    ∃ (s t u w : State) (x r : RegIdx), s.i.toNat + x.val < 4095 ∧ exec (.storeRegs x) s = .next t ∧ u.mem = t.mem ∧ u.i = s.i ∧
      exec (.loadRegs x) u = .next w ∧ r ≤ x :=
  ⟨base.setI 0xFEF#16, _, _, _, 0xF, 0xF, by decide, rfl, rfl, rfl, rfl, by decide⟩

/-- A range that ends at 0xFFE, one that passes it, and an empty one beyond it. -/
theorem witness_RangeCheckFindsTheLowestBadAddress :
    firstOutOfRange 0xFFD 2 = none ∧ firstOutOfRange 0xFFD 3 = some 4095 ∧ firstOutOfRange 0x1000 0 = none := by decide

theorem witness_ReadReturnsTheLastWrite : ∃ a : Nat, a < 4095 ∧ a = 0xFFE := ⟨0xFFE, by decide⟩

theorem witness_StoreIsSeenByTheNextFetch :
    ∃ (s t : State) (x r r' : RegIdx), s.i.toNat + x.val < 4095 ∧ exec (.storeRegs x) s = .next t ∧
      s.pc.toNat = s.i.toNat + r.val ∧ s.pc.toNat + 1 = s.i.toNat + r'.val ∧ r' ≤ x :=
  ⟨(base.setI 0xFEF#16).setPc 0xFFD#16, _, 0xF, 0xE, 0xF, by decide, rfl, by decide, by decide, by decide⟩

theorem witness_CanonicalMemoriesAreEqualData :
    ∃ m m' : Memory, Memory.wf m = true ∧ Memory.wf m' = true ∧ m ≠ [] ∧ ∀ a, Memory.lookup m a = Memory.lookup m' a :=
  ⟨[(0, 1#8), (4094, 2#8)], _, rfl, rfl, by decide, fun _ => rfl⟩

theorem witness_ComposeXorsOnePixel : ((62 : Fin 64), (31 : Fin 32)) ≠ (63, 31) := by decide

/-- n = 0 with I out of range, the last readable sprite byte, the first that is not. -/
theorem witness_DrawClipsWrapsAndCollides :
    (∃ ox oy : Nat, ox = ((base.setI 0xFFFF#16).reg 1).toNat % 64 ∧ oy = ((base.setI 0xFFFF#16).reg 2).toNat % 32 ∧
      (0#4).toNat = 0) ∧
    (base.setI 0xFF0#16).i.toNat + (15#4).toNat - 1 < 4095 ∧
    (0 < (15#4).toNat ∧ 4095 ≤ (base.setI 0xFF1#16).i.toNat + (15#4).toNat - 1) ∧
    (∃ cx cy, inSprite 60 30 5 cx cy ∧ pixel base.fb cx cy = spriteBit [(0x301, 0x0F#8)] 0x300 60 30 cx cy) ∧
    (∃ cx cy, ¬inSprite 60 30 5 cx cy) ∧
    ¬∃ cx cy, inSprite 63 31 1 cx cy ∧ pixel base.fb cx cy = spriteBit [(0x300, 0x80#8)] 0x300 63 31 cx cy := by
  refine ⟨⟨_, _, rfl, rfl, rfl⟩, by decide, by decide, ⟨60, 31, by decide, by decide⟩, ⟨59, 31, by decide⟩, ?_⟩
  rintro ⟨cx, cy, ⟨h1, -, h2, -⟩, h⟩
  have hx : cx = 63 := Fin.ext (by have := cx.isLt; omega)
  have hy : cy = 31 := Fin.ext (by have := cy.isLt; omega)
  subst hx hy
  exact absurd h (by decide)

theorem witness_DrawCollidesWhenAPixelEndsOff :
    ∃ (s t : State) (ox oy : Nat), ox = (s.reg 1).toNat % 64 ∧ oy = (s.reg 2).toNat % 32 ∧ s.stop = none ∧
      exec (.draw 1 2 15#4) s = .next t ∧ t.stop = none :=
  ⟨base.setI 0xFF0#16, _, _, _, rfl, rfl, rfl, rfl, rfl⟩

theorem witness_DrawTwiceRestoresTheFramebuffer :
    ∃ (s t u w : State), exec (.draw 1 2 15#4) s = .next t ∧ u.fb = t.fb ∧ u.i = s.i ∧ u.mem = s.mem ∧ u.reg 1 = s.reg 1 ∧
      u.reg 2 = s.reg 2 ∧ exec (.draw 1 2 15#4) u = .next w := by
  obtain ⟨t, ht⟩ : ∃ t, exec (.draw 1 2 15#4) (base.setI 0xFF0#16) = .next t := ⟨_, rfl⟩
  exact ⟨_, t, (base.setI 0xFF0#16).setFB t.fb, _, ht, rfl, rfl, rfl, rfl, rfl, rfl⟩

theorem witness_PresentLogIsAppendOnly :
    (∃ t, base.stop = none ∧ exec (.clear 0#4) base = .next t ∧ writesDisplay (.clear 0#4) ∧ t.stop = none) ∧
    (∃ t, exec (.draw 0 0 1#4) (base.setI 0xFFF#16) = .next t ∧ t.stop ≠ none) ∧
    ∃ t, exec (.jump 0#12) base = .next t ∧ ¬writesDisplay (.jump 0#12) :=
  ⟨⟨_, rfl, rfl, .inl ⟨_, rfl⟩, rfl⟩, ⟨_, rfl, nofun⟩, _, rfl, by simp [writesDisplay]⟩

theorem witness_SoundIsOnWhileTheSoundTimerRuns : ∃ t, exec (.storeSound 5) (base.setV 5 0xFF#8) = .next t := ⟨_, rfl⟩

theorem witness_KeySkipsAskTheInputSource :
    ((base.setV 5 15#8).reg 5).toNat < 16 ∧ 16 ≤ ((base.setV 5 16#8).reg 5).toNat := by decide

/-- Each answer the input source can give meets one clause. -/
theorem witness_WaitKeyPollsOnce (s : State) :
    Config.pressedKey s.oracleIx = none ∨ ∃ k, Config.pressedKey s.oracleIx = some k := by
  cases Config.pressedKey s.oracleIx
  · exact .inl rfl
  · exact .inr ⟨_, rfl⟩

/-- Whichever answer the poll gets, it meets one clause. -/
theorem witness_WaitKeyIsFetchedAgain :
    ∃ (s t : State) (op : Opcode) (x : RegIdx), s.fetch = .ok op ∧ decode op = .waitKey x ∧ step s = .next t ∧
      (Config.pressedKey (s.oracleIx + 1) = none ∨ ∃ k, Config.pressedKey (s.oracleIx + 1) = some k) :=
  ⟨(base.setPc 0xFFD#16).placeOpcode 0xFF0A#16, _, 0xFF0A#16, 0xF, rfl, by decide, rfl,
    witness_WaitKeyPollsOnce { base with oracleIx := 1 }⟩

theorem witness_IgnoredBitsHaveNoEffect :
    (∃ t, base.stop = none ∧ exec (.ret 0xF#4) base = .next t ∧ t.stop ≠ none) ∧
    ∃ t, exec (.skipEqReg 0xA 0xA 0x7#4) base = .next t ∧ t.stop = none :=
  ⟨⟨_, rfl, rfl, nofun⟩, _, rfl, rfl⟩

end Sys2Proof.Tests
end

/-! # The state (10_state.md): the call stack as a list, reset and load, when the core can step, the invariant -/

namespace Sys2Proof

/-! ## An operation's encoding decodes to it -/

/-- A no-op is left out: it is the decoding of its opcode only where no row of 30_encoding.md R90 matches. -/
theorem decode_encode_of_ne_noop {i : Instr} (h : ∀ op, i ≠ .noop op) : decode (encode i) = i := by
  cases i
  case noop op => exact absurd rfl (h op)
  all_goals simp [encode, decode, decodeClass0, decodeClass8, decodeClassE, decodeClassF]

end Sys2Proof

namespace Sys2Proof.Machine

/-! ## The call stack as a list (10_state.md R36 to R39) -/

theorem CallStack.toList_eq_nil {k : CallStack} : k.toList = [] ↔ k.len = 0 := by
  rw [← List.length_eq_zero_iff, CallStack.length_toList]

theorem CallStack.len_of_not_empty {k : CallStack} (h : k.empty = false) : k.len = k.sp.val + 1 := by
  simp [CallStack.len, h]

theorem CallStack.push_eq_none {k : CallStack} {a : Addr} : k.push a = none ↔ k.len = Config.stackDepth := by
  rcases k.push_cases a with ⟨hlen, hpush⟩ | ⟨k', hlen, hpush, -⟩
  · simp [hlen, hpush]
  · simp only [hpush, reduceCtorEq, false_iff]
    omega

theorem CallStack.pop_eq_none {k : CallStack} : k.pop = none ↔ k.len = 0 := by
  rcases k.pop_cases with ⟨hlen, hpop⟩ | ⟨k', -, hpop, -, hlen, -⟩ <;> simp [hlen, hpop]

/-- Everything a push that succeeds did (10_state.md R38). -/
theorem CallStack.push_eq_some {k k' : CallStack} {a : Addr} (h : k.push a = some k') :
    k.len < Config.stackDepth ∧ k'.empty = false ∧ k'.sp.val = k.len ∧ k'.slots = k.slots.set k'.sp.val a := by
  rcases k.push_cases a with ⟨-, hpush⟩ | ⟨k'', hlen, hpush, hrest⟩ <;> rw [hpush] at h <;> cases h
  exact ⟨hlen, hrest⟩

/-- Everything a pop that succeeds did (10_state.md R39). -/
theorem CallStack.pop_eq_some {k k' : CallStack} {v : Addr} (h : k.pop = some (v, k')) :
    v = k.slots[k.sp.val] ∧ k.len = k.sp.val + 1 ∧ k'.slots = k.slots ∧ k.len = k'.len + 1 ∧
      (k'.empty = true → k'.sp = 0) := by
  rcases k.pop_cases with ⟨-, hpop⟩ | ⟨k'', hne, hpop, hrest⟩ <;> rw [hpop] at h <;> cases h
  exact ⟨rfl, CallStack.len_of_not_empty hne, hrest⟩

/-- Push appends: the live slots below the new SP are kept, and the pushed value stands at it (10_state.md R38). -/
theorem CallStack.toList_of_push {k k' : CallStack} {a : Addr} (h : k.push a = some k') :
    k'.toList = k.toList ++ [a] := by
  obtain ⟨-, hne, hsp, hslots⟩ := CallStack.push_eq_some h
  rw [CallStack.toList, CallStack.len_of_not_empty hne, hslots, List.take_succ_eq_append_getElem (by simp),
    CallStack.toList, ← hsp]
  simp [Vector.toList_set, List.take_set_of_le]

/-- Pop removes the last entry and gives it (10_state.md R39). -/
theorem CallStack.toList_of_pop {k k' : CallStack} {v : Addr} (h : k.pop = some (v, k')) :
    k.toList = k'.toList ++ [v] := by
  obtain ⟨rfl, hsp, hslots, hlen, -⟩ := CallStack.pop_eq_some h
  have hrest : k'.len = k.sp.val := by omega
  rw [CallStack.toList, CallStack.toList, hslots, hsp, hrest, List.take_succ_eq_append_getElem (by simp)]
  simp

/-- Where EMPTY implies SP = 0, the length alone determines SP and EMPTY (10_state.md R37). -/
theorem CallStack.sp_empty_eq_of_len_eq {k k' : CallStack} (hk : k.empty = true → k.sp = 0)
    (hk' : k'.empty = true → k'.sp = 0) (h : k.len = k'.len) : k.sp = k'.sp ∧ k.empty = k'.empty := by
  unfold CallStack.len at h
  cases he : k.empty <;> cases he' : k'.empty <;> simp only [he, he'] at h
  · exact ⟨Fin.ext (by simpa using h), rfl⟩
  · simp at h
  · simp at h
  · exact ⟨(hk he).trans (hk' he').symm, rfl⟩

theorem CallStack.pop_of_push {k k' : CallStack} {a : Addr} (h : k.push a = some k') :
    ∃ k'', k'.pop = some (a, k'') ∧ k''.toList = k.toList ∧ (k''.empty = true → k''.sp = 0) := by
  have hlist := CallStack.toList_of_push h
  rcases k'.pop_cases with ⟨hlen, -⟩ | ⟨k'', -, hpop, -, -, hzero⟩
  · rw [CallStack.toList_eq_nil.mpr hlen] at hlist
    simp at hlist
  · have hback := (CallStack.toList_of_pop hpop).symm.trans hlist
    obtain ⟨hrest, htop⟩ := List.append_inj' hback rfl
    rw [List.singleton_inj.mp htop] at hpop
    exact ⟨k'', hpop, hrest, hzero⟩

/-- Settles O19: push and pop are append and removal of the last entry of the list of live slots. -/
theorem stackIsABoundedList : Obligations.StackIsABoundedList := by
  intro k a
  refine ⟨?_, fun k' => CallStack.toList_of_push, ?_, fun v k' => CallStack.toList_of_pop⟩
  · rw [CallStack.push_eq_none, CallStack.length_toList]
  · rw [CallStack.pop_eq_none, CallStack.toList_eq_nil]

/-- Settles O20: the list after push and pop is the old one, and on a consistent stack its length determines SP and
EMPTY. -/
theorem popAfterPushRestores : Obligations.PopAfterPushRestores := by
  intro k k' a hk hpush
  obtain ⟨k'', hpop, hlist, hzero⟩ := CallStack.pop_of_push hpush
  have hlen : k''.len = k.len := by simpa using congrArg List.length hlist
  exact ⟨k'', hpop, CallStack.sp_empty_eq_of_len_eq hzero hk hlen⟩

/-! ## The call stack's invariant -/

theorem CallStack.Inv.push {k k' : CallStack} {a : Addr} (hk : k.Inv) (ha : a.toNat ≤ 0xFFF)
    (h : k.push a = some k') : k'.Inv := by
  obtain ⟨-, hlive⟩ := hk
  obtain ⟨-, hne, -⟩ := CallStack.push_eq_some h
  refine ⟨by simp [hne], fun b hb => ?_⟩
  rw [CallStack.toList_of_push h, List.mem_append, List.mem_singleton] at hb
  rcases hb with hb | rfl
  · exact hlive b hb
  · exact ha

theorem CallStack.Inv.pop {k k' : CallStack} {v : Addr} (hk : k.Inv) (h : k.pop = some (v, k')) :
    v.toNat ≤ 0xFFF ∧ k'.Inv := by
  obtain ⟨-, hlive⟩ := hk
  have hlist := CallStack.toList_of_pop h
  obtain ⟨-, -, -, -, hzero⟩ := CallStack.pop_eq_some h
  exact ⟨hlive v (by simp [hlist]), hzero, fun b hb => hlive b (by simp [hlist, hb])⟩

theorem CallStack.reset_toList : CallStack.reset.toList = [] := CallStack.toList_eq_nil.mpr rfl

theorem CallStack.reset_inv : CallStack.reset.Inv := ⟨fun _ => rfl, by simp [CallStack.reset_toList]⟩

/-! ## Reset (10_state.md R46 to R51) -/

/-- Settles O17: the fields of the reset state, its stack read as a list and its framebuffer pixel by pixel. -/
theorem resetState : Obligations.ResetState :=
  ⟨rfl, ⟨CallStack.reset_toList, rfl, rfl⟩, pixel_blankFramebuffer, rfl, rfl⟩

/-- Settles O16: PC is 0x200, the stack empty, nothing written, no record latched. -/
theorem resetMeetsTheInvariant : Obligations.ResetMeetsTheInvariant where
  pc_le := by decide
  stack := CallStack.reset_inv
  mem_wf := Memory.wf_nil
  stop_legal := nofun

/-! ## The loader (70_reset_and_hazards.md R190, R191) -/

theorem resetByte_font {k : Nat} (h : k < Config.fontLen) : resetByte (Config.fontBase + k) = Config.font k := by
  rw [resetByte, if_pos ⟨by omega, by omega⟩, Nat.add_sub_cancel_left]

theorem resetByte_of_not_font {a : Nat} (h : ¬(Config.fontBase ≤ a ∧ a < Config.fontBase + Config.fontLen)) :
    resetByte a = Config.initMem a := if_neg h

theorem State.loadProgram_eq_none {s : State} {program : List Byte} (h : Config.maxProgramLen < program.length) :
    s.loadProgram program = none := if_neg (by omega)

theorem State.loadProgram_eq_some {s : State} {program : List Byte} (h : program.length ≤ Config.maxProgramLen) :
    s.loadProgram program = some (s.setMem (Memory.writeBytes s.mem Config.progBase program)) := if_pos h

/-- The memory the loader leaves: the program over the font over the reset bytes. -/
theorem byteAt_loaded (font : Vector Byte 80) {program : List Byte} (h : program.length ≤ Config.maxProgramLen) (a : Nat) :
    Memory.byteAt (Memory.writeBytes (State.reset.loadFont font).mem Config.progBase program) a =
      if hp : 0x200 ≤ a ∧ a < 0x200 + program.length then program[a - 0x200]
      else if hf : 0x050 ≤ a ∧ a < 0x050 + 80 then font[a - 0x050] else resetByte a := by
  have hfont : (State.reset.loadFont font).mem = Memory.writeBytes [] Config.fontBase font.toList := rfl
  rw [Memory.byteAt_writeBytes _ _ _ _ (by simp at h ⊢; omega), hfont,
    Memory.byteAt_writeBytes _ _ _ _ (by simp), Memory.byteAt_nil]
  simp

/-- Settles O18: the two loads write disjoint ranges over the reset bytes. -/
theorem loadedMemoryHoldsFontAndProgram : Obligations.LoadedMemoryHoldsFontAndProgram := by
  intro font program
  refine ⟨fun k hk => resetByte_font hk, State.loadProgram_eq_none,
    fun hlen => ⟨_, State.loadProgram_eq_some hlen, rfl, ?_, ?_, ?_⟩⟩ <;> rw [State.setMem_mem]
  · intro k hk
    rw [byteAt_loaded font hlen, dif_neg (by omega), dif_pos (by omega)]
    simp
  · intro k hk
    rw [byteAt_loaded font hlen, dif_pos (by omega)]
    simp
  · intro a _ hfont hprogram
    rw [byteAt_loaded font hlen, dif_neg hprogram, dif_neg hfont, resetByte_of_not_font hfont]

/-! ## Every instruction gives a next state, and so does every step but a stopped core's (10_state.md R42) -/

theorem exec_ret_of_pop_none {s : State} (z : Nibble) (h : s.stk.pop = none) :
    exec (.ret z) s = .next (s.raise .stackUnderflow (.ret z)) := by
  simp [exec, execRet, h]

theorem exec_ret_of_pop_some {s : State} {a : Addr} {k : CallStack} (z : Nibble) (h : s.stk.pop = some (a, k)) :
    exec (.ret z) s = .next ((s.setStk k).setPc a) := by
  simp [exec, execRet, h]

theorem exec_call_of_push_none {s : State} (nnn : BitVec 12) (h : s.stk.push s.pc = none) :
    exec (.call nnn) s = .next (s.raise (.stackOverflow s.pc) (.call nnn)) := by
  simp [exec, execCall, h]

theorem exec_call_of_push_some {s : State} {k : CallStack} (nnn : BitVec 12) (h : s.stk.push s.pc = some k) :
    exec (.call nnn) s = .next ((s.setStk k).setPc (zextAddr nnn)) := by
  simp [exec, execCall, h]

theorem exec_gives_next (i : Instr) (s : State) : ∃ t, exec i s = .next t := by
  cases i
  case ret z =>
    cases h : s.stk.pop with
    | none => exact ⟨_, exec_ret_of_pop_none z h⟩
    | some p => exact ⟨_, exec_ret_of_pop_some z h⟩
  case call nnn =>
    cases h : s.stk.push s.pc with
    | none => exact ⟨_, exec_call_of_push_none nnn h⟩
    | some k => exact ⟨_, exec_call_of_push_some nnn h⟩
  all_goals exact ⟨_, rfl⟩

theorem step_of_fetch_error {s : State} {address : Nat} (hs : s.stop = none) (hf : s.fetch = .error address) :
    step s = .next (s.elapse.raiseFetch address) := by
  simp [step, hs, hf]

theorem step_of_fetch_ok {s : State} {op : Opcode} (hs : s.stop = none) (hf : s.fetch = .ok op) :
    step s = exec (decode op) s.elapse.advancePc := by
  simp [step, hs, hf]

/-- Settles O8: a core that is not stopped latches a fetch stop or executes, and every instruction gives a next state. -/
theorem coreStepsExactlyWhenNotStopped : Obligations.CoreStepsExactlyWhenNotStopped := by
  intro s
  constructor
  · rintro ⟨t, h⟩
    exact (step_cases h).1
  · intro hs
    cases hf : s.fetch with
    | error address => exact ⟨_, step_of_fetch_error hs hf⟩
    | ok op =>
      rw [step_of_fetch_ok hs hf]
      exact exec_gives_next _ _

/-! ## The addresses a control transfer can reach (10_state.md R33) -/

theorem zextAddr_le (nnn : BitVec 12) : (zextAddr nnn).toNat ≤ 0xFFF := by
  have := nnn.isLt
  simp only [zextAddr, BitVec.toNat_setWidth]
  omega

theorem zextByte_le (b : Byte) : (zextByte b).toNat ≤ 0xFF := by
  have := b.isLt
  simp only [zextByte, BitVec.toNat_setWidth]
  omega

theorem toNat_add_two {a : Addr} (h : a.toNat < 0xFFFE) : (a + 2).toNat = a.toNat + 2 :=
  BitVec.toNat_add_of_lt (by change a.toNat + 2 < 2 ^ 16; omega)

/-! ## The records a step latches (60_exceptions.md R170 to R172) -/

/-- The instructions whose data access is range-checked before any change (20_memory.md R66). -/
def checksRange (i : Instr) : Prop :=
  (∃ x y n, i = .draw x y n) ∨ (∃ x, i = .storeBcd x) ∨ (∃ x, i = .storeRegs x) ∨ ∃ x, i = .loadRegs x

/-- The instructions that query a key (60_exceptions.md R182). -/
def queriesKey (i : Instr) : Prop :=
  (∃ x, i = .skipKeyPressed x) ∨ ∃ x, i = .skipKeyNotPressed x

theorem decode_encode_of_checksRange {i : Instr} (h : checksRange i) : decode (encode i) = i := by
  rcases h with ⟨x, y, n, rfl⟩ | ⟨x, rfl⟩ | ⟨x, rfl⟩ | ⟨x, rfl⟩ <;> exact decode_encode_of_ne_noop nofun

theorem decode_encode_of_queriesKey {i : Instr} (h : queriesKey i) : decode (encode i) = i := by
  rcases h with ⟨x, rfl⟩ | ⟨x, rfl⟩ <;> exact decode_encode_of_ne_noop nofun

section Legal

variable (pc : Addr)

theorem fetchStop_legal {a : Nat} (h : Config.memSize ≤ a) :
    StopRecord.Legal ⟨.memoryOutOfRange a, pc, none⟩ pc :=
  ⟨rfl, a, rfl, h⟩

theorem stackOverflow_legal (nnn : BitVec 12) :
    StopRecord.Legal ⟨.stackOverflow pc, pc - 2, some (encode (.call nnn))⟩ pc :=
  ⟨(BitVec.sub_add_cancel pc 2).symm, ⟨nnn, decode_encode_of_ne_noop nofun⟩, rfl⟩

theorem stackUnderflow_legal (z : Nibble) :
    StopRecord.Legal ⟨.stackUnderflow, pc - 2, some (encode (.ret z))⟩ pc :=
  ⟨(BitVec.sub_add_cancel pc 2).symm, z, decode_encode_of_ne_noop nofun⟩

theorem memoryOutOfRange_legal {i : Instr} {a : Nat} (hi : checksRange i) (ha : Config.memSize ≤ a) :
    StopRecord.Legal ⟨.memoryOutOfRange a, pc - 2, some (encode i)⟩ pc := by
  refine ⟨(BitVec.sub_add_cancel pc 2).symm, ha, ?_⟩
  rwa [decode_encode_of_checksRange hi]

theorem keyOutOfRange_legal {i : Instr} {k : Byte} (hi : queriesKey i) (hk : Config.numKeys ≤ k.toNat) :
    StopRecord.Legal ⟨.keyOutOfRange k, pc - 2, some (encode i)⟩ pc := by
  refine ⟨(BitVec.sub_add_cancel pc 2).symm, hk, ?_⟩
  rwa [decode_encode_of_queriesKey hi]

end Legal

/-! ## The invariant under the operations of the state -/

/-- The invariant speaks of PC, the stack, memory and STOP alone. -/
theorem State.Inv.of_fields {s t : State} (h : s.Inv) (hpc : t.pc = s.pc) (hstk : t.stk = s.stk) (hmem : t.mem = s.mem)
    (hstop : t.stop = s.stop) : t.Inv where
  pc_le := hpc ▸ h.pc_le
  stack := hstk ▸ h.stack
  mem_wf := hmem ▸ h.mem_wf
  stop_legal := hpc ▸ hstop ▸ h.stop_legal

theorem State.Inv.latch {s : State} {r : StopRecord} (h : s.Inv) (hr : r.Legal s.pc) : (s.latch r).Inv where
  pc_le := h.pc_le
  stack := h.stack
  mem_wf := h.mem_wf
  stop_legal := by rintro _ ⟨⟩; exact hr

/-- What holds of a state that an instruction executes from: PC is an instruction's address plus 2 (30_encoding.md R88), no
record is latched, and stack and memory meet the invariant. -/
structure State.Fetched (s : State) : Prop where
  pc_ge : 2 ≤ s.pc.toNat
  pc_le : s.pc.toNat ≤ 0xFFF
  stack : s.stk.Inv
  mem_wf : Memory.wf s.mem = true
  stop_none : s.stop = none

namespace State.Fetched

variable {s t : State}

/-- Whatever an instruction writes, the invariant holds after it when it raises no stop and keeps each part in bounds. -/
theorem inv_of_parts (h : s.Fetched) (hpc : t.pc.toNat ≤ maxPc) (hstk : t.stk.Inv) (hmem : Memory.wf t.mem = true)
    (hstop : t.stop = s.stop) : t.Inv where
  pc_le := hpc
  stack := hstk
  mem_wf := hmem
  stop_legal := by rw [hstop, h.stop_none]; nofun

theorem inv (h : s.Fetched) : s.Inv :=
  h.inv_of_parts (h.pc_le.trans (by decide)) h.stack h.mem_wf rfl

theorem inv_setPc (h : s.Fetched) {a : Addr} (ha : a.toNat ≤ maxPc) : (s.setPc a).Inv :=
  h.inv_of_parts ha h.stack h.mem_wf rfl

theorem inv_setMem (h : s.Fetched) {m : Memory} (hm : Memory.wf m = true) : (s.setMem m).Inv :=
  h.inv_of_parts h.inv.pc_le h.stack hm rfl

theorem inv_setRegs (h : s.Fetched) (w : Vector Byte 16) : (s.setRegs w).Inv :=
  h.inv.of_fields rfl rfl rfl rfl

theorem inv_skipIf (h : s.Fetched) (c : Bool) : (s.skipIf c).Inv := by
  have hle := h.pc_le
  cases c with
  | false => exact h.inv
  | true =>
    have hpc := toNat_add_two (a := s.pc) (by omega)
    exact h.inv_setPc (by simp only [maxPc]; omega)

theorem inv_withRange (h : s.Fetched) {base len : Nat} {i : Instr} {f : State → State} (hi : checksRange i)
    (hf : (f s).Inv) : (s.withRange base len i f).Inv := by
  rcases s.withRange_cases base len i f with ⟨-, -, hstop⟩ | ⟨-, hrun⟩
  · rw [hstop]
    exact h.inv.latch (memoryOutOfRange_legal s.pc hi (Nat.le_max_right _ _))
  · rwa [hrun]

theorem inv_skipOnKey (h : s.Fetched) {k : Byte} {want : Bool} {i : Instr} (hi : queriesKey i) :
    (s.skipOnKey k want i).Inv := by
  rcases s.skipOnKey_cases k want i with ⟨hk, hstop⟩ | ⟨key, -, hskip⟩
  · rw [hstop]
    exact h.inv.latch (keyOutOfRange_legal s.pc hi hk)
  · rw [hskip]
    exact (h.inv_skipIf _).of_fields rfl rfl rfl rfl

/-! ## The invariant under each instruction that writes PC, the stack, memory or STOP -/

theorem inv_exec_ret (h : s.Fetched) {z : Nibble} (he : exec (.ret z) s = .next t) : t.Inv := by
  cases hpop : s.stk.pop with
  | none =>
    rw [exec_ret_of_pop_none z hpop] at he
    cases he
    exact h.inv.latch (stackUnderflow_legal s.pc z)
  | some p =>
    obtain ⟨htop, hrest⟩ := h.stack.pop hpop
    rw [exec_ret_of_pop_some z hpop] at he
    cases he
    exact h.inv_of_parts (htop.trans (by decide)) hrest h.mem_wf rfl

theorem inv_exec_call (h : s.Fetched) {nnn : BitVec 12} (he : exec (.call nnn) s = .next t) : t.Inv := by
  cases hpush : s.stk.push s.pc with
  | none =>
    rw [exec_call_of_push_none nnn hpush] at he
    cases he
    exact h.inv.latch (stackOverflow_legal s.pc nnn)
  | some k =>
    rw [exec_call_of_push_some nnn hpush] at he
    cases he
    exact h.inv_of_parts ((zextAddr_le nnn).trans (by decide)) (h.stack.push h.pc_le hpush) h.mem_wf rfl

theorem inv_exec_jumpPlusV0 (h : s.Fetched) {nnn : BitVec 12} (he : exec (.jumpPlusV0 nnn) s = .next t) : t.Inv := by
  cases he
  have hbase := zextAddr_le nnn
  have hoffset := zextByte_le (s.reg 0)
  exact h.inv_setPc (by simp only [maxPc, BitVec.toNat_add]; omega)

/-- A poll that finds no key moves PC back to the instruction's own address (44_timers_input.md R153). -/
theorem inv_exec_waitKey (h : s.Fetched) {x : RegIdx} (he : exec (.waitKey x) s = .next t) : t.Inv := by
  have hge := h.pc_ge
  have hle := h.pc_le
  cases hkey : Config.pressedKey s.oracleIx with
  | none =>
    have ht : t = (s.setPc (s.pc - 2)).nextAnswer := by simpa [exec, execWaitKey, hkey] using he.symm
    have hpc : (s.pc - 2).toNat ≤ maxPc := by simp only [maxPc]; bv_omega
    subst ht
    exact (h.inv_setPc hpc).of_fields rfl rfl rfl rfl
  | some k =>
    have ht : t = (s.setV x (keyValue k)).nextAnswer := by simpa [exec, execWaitKey, hkey] using he.symm
    subst ht
    exact h.inv.of_fields rfl rfl rfl rfl

/-- Every instruction keeps the invariant; those that are not named write none of its parts. -/
theorem inv_exec (h : s.Fetched) {i : Instr} (he : exec i s = .next t) : t.Inv := by
  cases i
  case ret => exact h.inv_exec_ret he
  case call => exact h.inv_exec_call he
  case jumpPlusV0 => exact h.inv_exec_jumpPlusV0 he
  case waitKey => exact h.inv_exec_waitKey he
  all_goals cases he
  case jump nnn => exact h.inv_setPc ((zextAddr_le nnn).trans (by decide))
  case skipEq | skipNe | skipEqReg | skipNeReg => exact h.inv_skipIf _
  case skipKeyPressed x => exact h.inv_skipOnKey (.inl ⟨x, rfl⟩)
  case skipKeyNotPressed x => exact h.inv_skipOnKey (.inr ⟨x, rfl⟩)
  case draw x y n => exact h.inv_withRange (.inl ⟨x, y, n, rfl⟩) (h.inv.of_fields rfl rfl rfl rfl)
  case storeBcd x => exact h.inv_withRange (.inr (.inl ⟨x, rfl⟩)) (h.inv_setMem (Memory.wf_writeBytes _ _ h.mem_wf))
  case storeRegs x =>
    exact h.inv_withRange (.inr (.inr (.inl ⟨x, rfl⟩))) (h.inv_setMem (Memory.wf_writeBytes _ _ h.mem_wf))
  case loadRegs x => exact h.inv_withRange (.inr (.inr (.inr ⟨x, rfl⟩))) (h.inv_setRegs _)
  all_goals exact h.inv.of_fields rfl rfl rfl rfl

end State.Fetched

/-! ## The invariant under a step -/

theorem State.Inv.elapse {s : State} (h : s.Inv) : s.elapse.Inv := h.of_fields rfl rfl rfl rfl

theorem State.memSize_le_of_fetch_error {s : State} {address : Nat} (h : s.fetch = .error address) :
    Config.memSize ≤ address := by
  rcases s.fetch_cases with ⟨-, hf⟩ | ⟨-, hf⟩ <;> rw [hf] at h <;> cases h
  exact Nat.le_max_right _ _

theorem State.pc_lt_of_fetch_ok {s : State} {op : Opcode} (h : s.fetch = .ok op) : s.pc.toNat + 1 < Config.memSize := by
  rcases s.fetch_cases with ⟨-, hf⟩ | ⟨hpc, -⟩
  · rw [hf] at h
    cases h
  · exact hpc

theorem State.Inv.fetched {s : State} {op : Opcode} (h : s.Inv) (hs : s.stop = none) (hf : s.fetch = .ok op) :
    s.advancePc.Fetched := by
  have hpc := State.pc_lt_of_fetch_ok hf
  simp only [Config.memSize_eq] at hpc
  have hadvance : s.advancePc.pc.toNat = s.pc.toNat + 2 := toNat_add_two (by omega)
  exact ⟨by omega, by omega, h.stack, h.mem_wf, hs⟩

/-- Settles O15: a step latches a legal fetch stop, or executes an instruction from a state as the fetch leaves it. -/
theorem stepKeepsTheInvariant : Obligations.StepKeepsTheInvariant := by
  intro s t hs h
  obtain ⟨hstop, ⟨address, hf, rfl⟩ | ⟨op, hf, he⟩⟩ := step_cases h
  · exact hs.elapse.latch (fetchStop_legal s.pc (State.memSize_le_of_fetch_error hf))
  · exact (hs.elapse.fetched hstop hf).inv_exec he

end Sys2Proof.Machine

/-! # Memory (20_memory.md): the range check, a read after a write, store-regs and the fetch -/

namespace Sys2Proof.Machine

/-! ## The range check (20_memory.md R65 to R67) -/

theorem firstOutOfRange_eq_none {base len : Nat} :
    firstOutOfRange base len = none ↔ len = 0 ∨ base + len ≤ Config.memSize := by
  unfold firstOutOfRange
  split <;> simp only [reduceCtorEq, false_iff, true_iff] <;> omega

theorem firstOutOfRange_eq_some {base len a : Nat} :
    firstOutOfRange base len = some a ↔
      0 < len ∧ Config.memSize < base + len ∧ a = max base Config.memSize := by
  unfold firstOutOfRange
  split <;> simp only [reduceCtorEq, false_iff, Option.some.injEq] <;> omega

/-- Settles O37: a range is good when its last address is, and its lowest bad address is its first one or MEM_SIZE. -/
theorem rangeCheckFindsTheLowestBadAddress : Obligations.RangeCheckFindsTheLowestBadAddress := by
  intro base len a
  constructor
  · rw [firstOutOfRange_eq_none, Config.memSize_eq]
    constructor
    · intro hgood b hlo hhi
      omega
    · intro hgood
      have hlast := hgood (base + len - 1)
      omega
  · rw [firstOutOfRange_eq_some, Config.memSize_eq]
    constructor
    · rintro ⟨hlen, hend, rfl⟩
      exact ⟨by omega, by omega, by omega, fun b hlo hhi => by omega⟩
    · rintro ⟨hlo, hhi, hbad, hbelow⟩
      have hpred := hbelow (a - 1)
      omega

/-! ## Reads and writes (20_memory.md R64, R73; 10_state.md R50) -/

/-- Settles O38: a read finds the byte written last, and the reset memory lists no written byte. -/
theorem readReturnsTheLastWrite : Obligations.ReadReturnsTheLastWrite := by
  refine ⟨fun m a b v ha => ?_, fun a => Memory.byteAt_nil a⟩
  rw [← Config.memSize_eq] at ha
  simp only [Memory.byteAt_write, ha, and_true]

/-! ## store-regs (42_index_memory.md R134) -/

@[simp] theorem State.length_regsUpTo (s : State) (x : RegIdx) : (s.regsUpTo x).length = x.val + 1 := by
  have hx := x.isLt
  rw [State.regsUpTo, List.length_take, Vector.length_toList]
  omega

theorem State.getElem_regsUpTo (s : State) {x r : RegIdx} (h : r.val < (s.regsUpTo x).length) :
    (s.regsUpTo x)[r.val] = s.reg r := by
  simp [State.regsUpTo, State.reg]

theorem exec_storeRegs_of_range_ok {s : State} {x : RegIdx} (h : s.i.toNat + x.val < Config.memSize) :
    exec (.storeRegs x) s = .next (s.setMem (Memory.writeBytes s.mem s.i.toNat (s.regsUpTo x))) := by
  rcases s.withRange_cases s.i.toNat (x.val + 1) (.storeRegs x)
      (fun s => s.setMem (Memory.writeBytes s.mem s.i.toNat (s.regsUpTo x))) with ⟨-, hbad, -⟩ | ⟨-, hrun⟩
  · omega
  · exact congrArg Host.Outcome.next hrun

/-- Memory after store-regs, at an address that holds a stored register. -/
theorem byteAt_storedRegs {s : State} {x r : RegIdx} (h : s.i.toNat + x.val < Config.memSize) (hr : r ≤ x) :
    Memory.byteAt (Memory.writeBytes s.mem s.i.toNat (s.regsUpTo x)) (s.i.toNat + r.val) = s.reg r := by
  have hle : r.val ≤ x.val := hr
  have hlen := s.length_regsUpTo x
  have hin : r.val < (s.regsUpTo x).length := by omega
  rw [Memory.byteAt_writeBytes _ _ _ _ (by omega), dif_pos ⟨by omega, by omega⟩]
  simp [State.getElem_regsUpTo s hin]

/-! ## A store is seen by the next fetch (20_memory.md R75) -/

theorem State.fetch_of_pc_lt {s : State} (h : s.pc.toNat + 1 < Config.memSize) :
    s.fetch = .ok (opcodeOfBytes (Memory.byteAt s.mem s.pc.toNat) (Memory.byteAt s.mem (s.pc.toNat + 1))) := by
  rcases s.fetch_cases with ⟨hbad, -⟩ | ⟨-, hfetch⟩
  · omega
  · exact hfetch

/-- Settles O39: both bytes at PC are stored registers, and store-regs leaves PC alone. -/
theorem storeIsSeenByTheNextFetch : Obligations.StoreIsSeenByTheNextFetch := by
  intro s t x r r' hrange hexec hpc hpc' hr'
  rw [exec_storeRegs_of_range_ok hrange] at hexec
  cases hexec
  have hle : r'.val ≤ x.val := hr'
  have hr : r ≤ x := Fin.le_def.mpr (by omega)
  have hgood : s.pc.toNat + 1 < Config.memSize := by rw [Config.memSize_eq]; omega
  rw [State.fetch_of_pc_lt (by rwa [State.setMem_pc]), State.setMem_pc, State.setMem_mem, hpc',
    byteAt_storedRegs hrange hr', hpc, byteAt_storedRegs hrange hr, opcodeOfBytes]

end Sys2Proof.Machine

/-! # Encoding (30_encoding.md): decode and encode are inverse, the opcode map, the no-ops -/

namespace Sys2Proof

section Opcode

variable {op : Opcode}

/-! ## Every opcode is the encoding of one well-formed instruction (30_encoding.md R83) -/

theorem unmatched_iff : unmatched op = true ↔
    (classOf op = 0x0#4 ∧ nnOf op ∉ [0xE0#8, 0xEE#8]) ∨
    (classOf op = 0x8#4 ∧ nOf op ∈ [0x8#4, 0x9#4, 0xA#4, 0xB#4, 0xC#4, 0xD#4, 0xF#4]) ∨
    (classOf op = 0xE#4 ∧ nnOf op ∉ [0x9E#8, 0xA1#8]) ∨
    (classOf op = 0xF#4 ∧
      nnOf op ∉ [0x07#8, 0x0A#8, 0x15#8, 0x18#8, 0x1E#8, 0x29#8, 0x33#8, 0x55#8, 0x65#8]) := by
  simp [unmatched, or_assoc]

/-- The submasks of class 8 that R85 leaves out are the ones R87 lists. -/
theorem mem_unmatched_submasks : ∀ n : Nibble, n ∉ [0x0#4, 0x1#4, 0x2#4, 0x3#4, 0x4#4, 0x5#4, 0x6#4, 0x7#4, 0xE#4] →
    n ∈ [0x8#4, 0x9#4, 0xA#4, 0xB#4, 0xC#4, 0xD#4, 0xF#4] := by
  decide

theorem wf_and_encode_decodeClass0 (h : classOf op = 0x0#4) :
    (decodeClass0 op).wf = true ∧ encode (decodeClass0 op) = op := by
  unfold decodeClass0
  split
  case h_3 => exact ⟨unmatched_iff.mpr (.inl ⟨h, by simp; tauto⟩), rfl⟩
  all_goals next hnn => exact ⟨rfl, by rw [encode, ← h, ← hnn, fromByte_fields]⟩

theorem wf_and_encode_decodeClass8 (h : classOf op = 0x8#4) :
    (decodeClass8 op).wf = true ∧ encode (decodeClass8 op) = op := by
  unfold decodeClass8
  split
  case h_10 =>
    have hn := mem_unmatched_submasks (nOf op) (by simp; tauto)
    exact ⟨unmatched_iff.mpr (.inr (.inl ⟨h, hn⟩)), rfl⟩
  all_goals next hn => exact ⟨rfl, by rw [encode, ← h, ← hn, fromNibbles_fields]⟩

theorem wf_and_encode_decodeClassE (h : classOf op = 0xE#4) :
    (decodeClassE op).wf = true ∧ encode (decodeClassE op) = op := by
  unfold decodeClassE
  split
  case h_3 => exact ⟨unmatched_iff.mpr (.inr (.inr (.inl ⟨h, by simp; tauto⟩))), rfl⟩
  all_goals next hnn => exact ⟨rfl, by rw [encode, regField_xOf, ← h, ← hnn, fromByte_fields]⟩

theorem wf_and_encode_decodeClassF (h : classOf op = 0xF#4) :
    (decodeClassF op).wf = true ∧ encode (decodeClassF op) = op := by
  unfold decodeClassF
  split
  case h_10 => exact ⟨unmatched_iff.mpr (.inr (.inr (.inr ⟨h, by simp; tauto⟩))), rfl⟩
  all_goals next hnn => exact ⟨rfl, by rw [encode, regField_xOf, ← h, ← hnn, fromByte_fields]⟩

theorem wf_and_encode_decode (op : Opcode) : (decode op).wf = true ∧ encode (decode op) = op := by
  unfold decode
  split
  case h_1 h => exact wf_and_encode_decodeClass0 h
  case h_9 h => exact wf_and_encode_decodeClass8 h
  case h_15 h => exact wf_and_encode_decodeClassE h
  case h_16 =>
    have hlast : ∀ c : Nibble, c ∉ [0x0#4, 0x1#4, 0x2#4, 0x3#4, 0x4#4, 0x5#4, 0x6#4, 0x7#4, 0x8#4, 0x9#4, 0xA#4,
        0xB#4, 0xC#4, 0xD#4, 0xE#4] → c = 0xF#4 := by decide
    exact wf_and_encode_decodeClassF (hlast _ (by simp; tauto))
  case h_2 h | h_3 h | h_11 h | h_12 h => exact ⟨rfl, by rw [encode, ← h, fromAddr_fields]⟩
  case h_6 h | h_10 h | h_14 h => exact ⟨rfl, by rw [encode, ← h, fromNibbles_fields]⟩
  case h_4 h | h_5 h | h_7 h | h_8 h | h_13 h => exact ⟨rfl, by rw [encode, regField_xOf, ← h, fromByte_fields]⟩

theorem wf_decode (op : Opcode) : (decode op).wf = true := (wf_and_encode_decode op).1

@[simp] theorem encode_decode (op : Opcode) : encode (decode op) = op := (wf_and_encode_decode op).2

/-- Settles O3: each table of the decoder gives well-formed instructions that encode back. -/
theorem everyOpcodeIsOneInstruction : Obligations.EveryOpcodeIsOneInstruction := wf_and_encode_decode

/-! ## A well-formed instruction is the decoding of its opcode (30_encoding.md R81, R87) -/

theorem eq_of_decode_eq_noop {op' : Opcode} (h : decode op = .noop op') : op' = op := by
  have hback := encode_decode op
  rwa [h] at hback

theorem unmatched_encode_of_ne_noop {i : Instr} (h : ∀ op, i ≠ .noop op) : unmatched (encode i) = false := by
  cases i
  case noop op => exact absurd rfl (h op)
  all_goals simp [encode, unmatched]

theorem decode_eq_noop_iff : decode op = .noop op ↔ unmatched op = true := by
  constructor
  · intro h
    have hwf := wf_decode op
    rwa [h] at hwf
  · intro h
    by_cases hnoop : ∃ op', decode op = .noop op'
    · obtain ⟨op', hop⟩ := hnoop
      rw [hop, eq_of_decode_eq_noop hop]
    · have hmatched := unmatched_encode_of_ne_noop (not_exists.mp hnoop)
      rw [encode_decode, h] at hmatched
      cases hmatched

theorem decode_encode_of_wf {i : Instr} (h : i.wf = true) : decode (encode i) = i := by
  by_cases hnoop : ∃ op, i = .noop op
  · obtain ⟨op, rfl⟩ := hnoop
    exact decode_eq_noop_iff.mpr h
  · exact decode_encode_of_ne_noop (not_exists.mp hnoop)

/-- Settles O2: an operation's fields are read back from its encoding, and a well-formed no-op's opcode matches no row. -/
theorem decodeOfEncodeIsIdentity : Obligations.DecodeOfEncodeIsIdentity := fun _ => decode_encode_of_wf

/-! ## The opcode map (30_encoding.md R90) -/

/-- The encoding of an instruction lies in its row. -/
theorem encode_and_rowMask (i : Instr) : encode i &&& rowMask i = rowMatch i := by
  cases i
  case jump | call | loadI | jumpPlusV0 => exact (Laws.fromAddr_mask_class _ _).trans rfl
  case skipEq | skipNe | load | addImm | rand => exact (Laws.fromByte_mask_class _ _ _).trans rfl
  case skipEqReg | skipNeReg | draw => exact (Laws.fromNibbles_mask_class _ _ _ _).trans rfl
  case move | or | and | xor | add | sub | shr | subn | shl => exact (Laws.fromNibbles_mask_nibble _ _ _ _).trans rfl
  case noop => exact BitVec.and_zero
  all_goals exact (Laws.fromByte_mask_byte _ _ _).trans rfl

/-- A word is its part under a mask and its part outside the mask. -/
theorem eq_of_and_eq_of_and_not_eq {a b m : Opcode} (h : a &&& m = b &&& m) (h' : a &&& ~~~m = b &&& ~~~m) : a = b := by
  ext k hk
  have hin : (a &&& m)[k] = (b &&& m)[k] := by rw [h]
  have hout : (a &&& ~~~m)[k] = (b &&& ~~~m)[k] := by rw [h']
  simp only [BitVec.getElem_and, BitVec.getElem_not] at hin hout
  cases hm : m[k]
  · simpa [hm] using hout
  · simpa [hm] using hin

/-- An instruction whose operands are the opcode's own fields, the bits outside its row's mask, is decoded exactly when the
opcode passes the row's test. -/
theorem and_rowMask_eq_iff (i : Instr) (hi : ∀ op, i ≠ .noop op)
    (hfields : encode i &&& ~~~rowMask i = op &&& ~~~rowMask i) : op &&& rowMask i = rowMatch i ↔ decode op = i := by
  constructor
  · intro h
    have hop : op = encode i := eq_of_and_eq_of_and_not_eq (h.trans (encode_and_rowMask i).symm) hfields.symm
    rw [hop, decode_encode_of_ne_noop hi]
  · intro h
    rw [← encode_and_rowMask i, ← h, encode_decode]

/-! An encoding's bits outside its row's mask, one lemma per shape and mask, when its operands are the opcode's own
fields. -/

section Operands

variable (op : Opcode) (c d : Nibble) (nn : Byte)

theorem fromAddr_operands : fromAddr c (nnnOf op) &&& ~~~0xF000#16 = op &&& ~~~0xF000#16 := by
  have hmask : (~~~0xF000#16 : Opcode) = fromAddr 0#4 0xFFF#12 := by decide
  conv_rhs => rw [← fromAddr_fields op]
  simp only [hmask, Laws.fromAddr_and, BitVec.and_zero]

theorem fromByte_operands : fromByte c (highNibbleOf op) (nnOf op) &&& ~~~0xF000#16 = op &&& ~~~0xF000#16 := by
  have hmask : (~~~0xF000#16 : Opcode) = fromByte 0#4 0xF#4 0xFF#8 := by decide
  conv_rhs => rw [← fromByte_fields op]
  simp only [hmask, Laws.fromByte_and, BitVec.and_zero]

theorem fromByte_operand : fromByte c (highNibbleOf op) nn &&& ~~~0xF0FF#16 = op &&& ~~~0xF0FF#16 := by
  have hmask : (~~~0xF0FF#16 : Opcode) = fromByte 0#4 0xF#4 0#8 := by decide
  conv_rhs => rw [← fromByte_fields op]
  simp only [hmask, Laws.fromByte_and, BitVec.and_zero]

theorem fromNibbles_operands :
    fromNibbles c (regField (xOf op)) (regField (yOf op)) (nOf op) &&& ~~~0xF000#16 = op &&& ~~~0xF000#16 := by
  have hmask : (~~~0xF000#16 : Opcode) = fromNibbles 0#4 0xF#4 0xF#4 0xF#4 := by decide
  conv_rhs => rw [← fromNibbles_fields op]
  simp only [hmask, Laws.fromNibbles_and, BitVec.and_zero]

theorem fromNibbles_operands_xy :
    fromNibbles c (regField (xOf op)) (regField (yOf op)) d &&& ~~~0xF00F#16 = op &&& ~~~0xF00F#16 := by
  have hmask : (~~~0xF00F#16 : Opcode) = fromNibbles 0#4 0xF#4 0xF#4 0#4 := by decide
  conv_rhs => rw [← fromNibbles_fields op]
  simp only [hmask, Laws.fromNibbles_and, BitVec.and_zero]

end Operands

/-- Every operation's row is one of the tests of R90. -/
theorem row_listed {i : Instr} (hi : ∀ op, i ≠ .noop op) :
    (rowMask i = 0xF000#16 ∧ rowMatch i ∈ [0x1000#16, 0x2000#16, 0x3000#16, 0x4000#16, 0x5000#16, 0x6000#16, 0x7000#16,
      0x9000#16, 0xA000#16, 0xB000#16, 0xC000#16, 0xD000#16]) ∨
    (rowMask i = 0xF00F#16 ∧ rowMatch i ∈ [0x8000#16, 0x8001#16, 0x8002#16, 0x8003#16, 0x8004#16, 0x8005#16, 0x8006#16,
      0x8007#16, 0x800E#16]) ∨
    (rowMask i = 0xF0FF#16 ∧ rowMatch i ∈ [0x00E0#16, 0x00EE#16, 0xE09E#16, 0xE0A1#16, 0xF007#16, 0xF00A#16, 0xF015#16,
      0xF018#16, 0xF01E#16, 0xF029#16, 0xF033#16, 0xF055#16, 0xF065#16]) := by
  cases i
  case noop op => exact absurd rfl (hi op)
  all_goals simp [rowMask, rowMatch]

/-- Settles O4, row by row of R90: the bits under a row's mask are its match and the bits outside it the operands, and an
opcode that is decoded to an operation passes that operation's test. -/
theorem opcodeMapSelectsTheOperation : Obligations.OpcodeMapSelectsTheOperation := by
  rintro op _ _ _ _ _ _ rfl rfl rfl rfl rfl rfl
  refine ⟨
    and_rowMask_eq_iff (.clear (highNibbleOf op)) nofun (fromByte_operand op _ _),
    and_rowMask_eq_iff (.ret (highNibbleOf op)) nofun (fromByte_operand op _ _),
    and_rowMask_eq_iff (.jump (nnnOf op)) nofun (fromAddr_operands op _),
    and_rowMask_eq_iff (.call (nnnOf op)) nofun (fromAddr_operands op _),
    and_rowMask_eq_iff (.skipEq (xOf op) (nnOf op)) nofun (fromByte_operands op _),
    and_rowMask_eq_iff (.skipNe (xOf op) (nnOf op)) nofun (fromByte_operands op _),
    and_rowMask_eq_iff (.skipEqReg (xOf op) (yOf op) (nOf op)) nofun (fromNibbles_operands op _),
    and_rowMask_eq_iff (.load (xOf op) (nnOf op)) nofun (fromByte_operands op _),
    and_rowMask_eq_iff (.addImm (xOf op) (nnOf op)) nofun (fromByte_operands op _),
    and_rowMask_eq_iff (.move (xOf op) (yOf op)) nofun (fromNibbles_operands_xy op _ _),
    and_rowMask_eq_iff (.or (xOf op) (yOf op)) nofun (fromNibbles_operands_xy op _ _),
    and_rowMask_eq_iff (.and (xOf op) (yOf op)) nofun (fromNibbles_operands_xy op _ _),
    and_rowMask_eq_iff (.xor (xOf op) (yOf op)) nofun (fromNibbles_operands_xy op _ _),
    and_rowMask_eq_iff (.add (xOf op) (yOf op)) nofun (fromNibbles_operands_xy op _ _),
    and_rowMask_eq_iff (.sub (xOf op) (yOf op)) nofun (fromNibbles_operands_xy op _ _),
    and_rowMask_eq_iff (.shr (xOf op) (yOf op)) nofun (fromNibbles_operands_xy op _ _),
    and_rowMask_eq_iff (.subn (xOf op) (yOf op)) nofun (fromNibbles_operands_xy op _ _),
    and_rowMask_eq_iff (.shl (xOf op) (yOf op)) nofun (fromNibbles_operands_xy op _ _),
    and_rowMask_eq_iff (.skipNeReg (xOf op) (yOf op) (nOf op)) nofun (fromNibbles_operands op _),
    and_rowMask_eq_iff (.loadI (nnnOf op)) nofun (fromAddr_operands op _),
    and_rowMask_eq_iff (.jumpPlusV0 (nnnOf op)) nofun (fromAddr_operands op _),
    and_rowMask_eq_iff (.rand (xOf op) (nnOf op)) nofun (fromByte_operands op _),
    and_rowMask_eq_iff (.draw (xOf op) (yOf op) (nOf op)) nofun (fromNibbles_operands op _),
    and_rowMask_eq_iff (.skipKeyPressed (xOf op)) nofun (fromByte_operand op _ _),
    and_rowMask_eq_iff (.skipKeyNotPressed (xOf op)) nofun (fromByte_operand op _ _),
    and_rowMask_eq_iff (.loadDelay (xOf op)) nofun (fromByte_operand op _ _),
    and_rowMask_eq_iff (.waitKey (xOf op)) nofun (fromByte_operand op _ _),
    and_rowMask_eq_iff (.storeDelay (xOf op)) nofun (fromByte_operand op _ _),
    and_rowMask_eq_iff (.storeSound (xOf op)) nofun (fromByte_operand op _ _),
    and_rowMask_eq_iff (.addI (xOf op)) nofun (fromByte_operand op _ _),
    and_rowMask_eq_iff (.loadFontAddr (xOf op)) nofun (fromByte_operand op _ _),
    and_rowMask_eq_iff (.storeBcd (xOf op)) nofun (fromByte_operand op _ _),
    and_rowMask_eq_iff (.storeRegs (xOf op)) nofun (fromByte_operand op _ _),
    and_rowMask_eq_iff (.loadRegs (xOf op)) nofun (fromByte_operand op _ _),
    fun hclass hnibble hbyte => ?_⟩
  by_contra hnoop
  have hop : ∀ op', decode op ≠ .noop op' := fun op' h => hnoop (eq_of_decode_eq_noop h ▸ h)
  have hrow := encode_and_rowMask (decode op)
  rw [encode_decode] at hrow
  rcases row_listed hop with ⟨hmask, hmem⟩ | ⟨hmask, hmem⟩ | ⟨hmask, hmem⟩ <;> rw [← hrow, hmask] at hmem
  · exact hclass hmem
  · exact hnibble hmem
  · exact hbyte hmem

/-! ## The no-ops (30_encoding.md R87) -/

/-- Settles O5: a no-op is what an opcode of the four lists decodes to, and its meaning is the identity. -/
theorem unmatchedOpcodesAreNoOps : Obligations.UnmatchedOpcodesAreNoOps := by
  refine ⟨?_, fun op s => rfl⟩
  rintro op _ _ _ rfl rfl rfl
  exact decode_eq_noop_iff.trans unmatched_iff

end Opcode

end Sys2Proof

/-! # The decoder of bytes, the step, the frame, ignored bits and the spelling (30_encoding.md) -/

namespace Sys2Proof

/-! ## Words and bytes (30_encoding.md R80, R90) -/

/-- Settles O1: the fifteen words, decoded by evaluation. -/
theorem specWordsDecodeAsWritten : Obligations.SpecWordsDecodeAsWritten := by
  unfold Obligations.SpecWordsDecodeAsWritten
  decide

/-- Settles O6: two bytes make an opcode, and neither shorter list does. -/
theorem decodeConsumesTwoBytes : Obligations.DecodeConsumesTwoBytes := by
  refine ⟨fun hi lo rest => rfl, fun bytes hlen => ?_⟩
  match bytes, hlen with
  | [], _ => rfl
  | [_], _ => rfl

/-! ## The spelling (30_encoding.md R94, R95) -/

/-- A spelling assembles to its instruction, and its name is one word. -/
theorem assemble_of_disassemble {i : Instr} {l : AsmLine} (h : disassemble i = some l) :
    assemble l = some i.canonical ∧ ' ' ∉ l.name.toList := by
  cases i <;> cases h <;> exact ⟨rfl, by dsimp only; decide⟩

theorem assembleText_of_disassemble {i : Instr} {l : AsmLine} (h : disassemble i = some l) :
    assembleText l.text = some i.canonical := by
  obtain ⟨hline, hname⟩ := assemble_of_disassemble h
  rw [assembleText, readLine_text l hname, Option.bind_some, hline, Option.some_or]

theorem disassemble_eq_none {i : Instr} (h : disassemble i = none) : ∃ op, i = .noop op := by
  cases i
  case noop op => exact ⟨op, rfl⟩
  all_goals cases h

/-- Settles O52: reading a spelling's text gives its line, and the line assembles to the instruction. -/
theorem assemblingTheSpellingGivesTheInstruction : Obligations.AssemblingTheSpellingGivesTheInstruction := by
  intro i
  cases h : disassemble i with
  | none =>
    obtain ⟨op, hop⟩ := disassemble_eq_none h
    exact .inl ⟨op, hop, rfl⟩
  | some l => exact .inr ⟨l, rfl, (assemble_of_disassemble h).1, assembleText_of_disassemble h⟩

end Sys2Proof

namespace Sys2Proof.Machine

/-! ## The step (30_encoding.md R88) -/

/-- Settles O11: no arm of `exec` faults or refuses, a stop being a next state. -/
theorem everyInstructionGivesANextState : Obligations.EveryInstructionGivesANextState := exec_gives_next

theorem step_of_stopped {s : State} {r : StopRecord} (h : s.stop = some r) : step s = .fault (.stopped r) := by
  simp [step, h]

/-- The fetch stops at the lower of the opcode's addresses that does not exist. -/
theorem State.fetch_of_pc_ge {s : State} (h : Config.memSize ≤ s.pc.toNat + 1) :
    s.fetch = .error (max s.pc.toNat Config.memSize) := by
  rcases s.fetch_cases with ⟨-, hfetch⟩ | ⟨hgood, -⟩
  · exact hfetch
  · omega

/-- Settles O7: the step's outcome follows the fetch's, which follows PC. -/
theorem stepIsFetchAdvanceExecute : Obligations.StepIsFetchAdvanceExecute := by
  intro s
  refine ⟨fun r => step_of_stopped, fun hs hpc => ?_, fun hs hpc hpc' => ?_, fun hs hpc => ?_⟩
  · have hmax : max s.pc.toNat Config.memSize = s.pc.toNat := Nat.max_eq_left hpc
    rw [step_of_fetch_error hs (State.fetch_of_pc_ge (by simp only [Config.memSize_eq]; omega)), hmax]
    rfl
  · have hmax : max s.pc.toNat Config.memSize = s.pc.toNat + 1 := by simp only [Config.memSize_eq]; omega
    rw [step_of_fetch_error hs (State.fetch_of_pc_ge hpc'), hmax]
    rfl
  · rw [step_of_fetch_ok hs (State.fetch_of_pc_lt hpc)]
    rfl

/-! ## Ignored bits (30_encoding.md R85, R86; 41_alu.md R119, R121) -/

/-- return reads its ignored nibble for the record's opcode alone. -/
theorem exec_ret_canonical {s t : State} {z : Nibble} (h : exec (.ret z) s = .next t) :
    ∃ t', exec (.ret 0#4) s = .next t' ∧ t' = { t with stop := t'.stop } ∧
      t'.stop.map (fun r => (r.cause, r.fetchPc)) = t.stop.map (fun r => (r.cause, r.fetchPc)) := by
  cases hpop : s.stk.pop with
  | none =>
    rw [exec_ret_of_pop_none z hpop] at h
    cases h
    exact ⟨_, exec_ret_of_pop_none 0#4 hpop, rfl, rfl⟩
  | some p =>
    rw [exec_ret_of_pop_some z hpop] at h
    cases h
    exact ⟨_, exec_ret_of_pop_some 0#4 hpop, rfl, rfl⟩

/-- Settles O53: every meaning but return's drops the ignored nibble. -/
theorem ignoredBitsHaveNoEffect : Obligations.IgnoredBitsHaveNoEffect := by
  refine ⟨fun i s t _ h => ?_, fun s x y y' => ⟨rfl, rfl⟩⟩
  cases i
  case ret z => exact exec_ret_canonical h
  all_goals exact ⟨t, h, rfl, rfl⟩

/-! ## The frame (30_encoding.md R89)

Each named update of the state keeps the frame of an instruction whose rule names it, so that an instruction's frame is read
off its meaning. -/

/-- `t` differs from `s` only in what the rule of `i` writes. -/
structure Frame (i : Instr) (s t : State) : Prop where
  reg : ∀ r, ¬writesReg i r → t.reg r = s.reg r
  pc : ¬writesPc i → t.pc = s.pc
  index : ¬writesI i → t.i = s.i
  dt : (∀ x, i ≠ .storeDelay x) → t.dt = s.dt
  st : (∀ x, i ≠ .storeSound x) → t.st = s.st
  stk : ¬writesStack i → t.stk = s.stk
  display : ¬writesDisplay i → t.fb = s.fb ∧ t.presents = s.presents
  mem : ∀ a, ¬storesTo i s a → Memory.byteAt t.mem a = Memory.byteAt s.mem a
  stop : ¬mayStop i → t.stop = s.stop

namespace Frame

variable {i : Instr} {s t : State}

theorem refl (i : Instr) (s : State) : Frame i s s :=
  ⟨fun _ _ => rfl, fun _ => rfl, fun _ => rfl, fun _ => rfl, fun _ => rfl, fun _ => rfl, fun _ => ⟨rfl, rfl⟩,
    fun _ _ => rfl, fun _ => rfl⟩

theorem setV (h : Frame i s t) {x : RegIdx} (hx : writesReg i x) (b : Byte) : Frame i s (t.setV x b) :=
  { h with
    reg := fun r hr => by
      have hne : r ≠ x := fun e => hr (e ▸ hx)
      rw [State.setV_reg_ne t b hne, h.reg r hr] }

theorem setRegs (h : Frame i s t) {w : Vector Byte 16} (hw : ∀ r : RegIdx, ¬writesReg i r → w[r.val] = t.reg r) :
    Frame i s (t.setRegs w) :=
  { h with reg := fun r hr => (hw r hr).trans (h.reg r hr) }

theorem setPc (h : Frame i s t) (hi : writesPc i) (a : Addr) : Frame i s (t.setPc a) :=
  { h with pc := (absurd hi ·) }

theorem skipIf (h : Frame i s t) (hi : writesPc i) (c : Bool) : Frame i s (t.skipIf c) := by
  cases c
  · exact h
  · exact h.setPc hi _

theorem setI (h : Frame i s t) (hi : writesI i) (a : Addr) : Frame i s (t.setI a) :=
  { h with index := (absurd hi ·) }

theorem setStk (h : Frame i s t) (hi : writesStack i) (k : CallStack) : Frame i s (t.setStk k) :=
  { h with stk := (absurd hi ·) }

theorem setFB_present (h : Frame i s t) (hi : writesDisplay i) (f : Framebuffer) : Frame i s (t.setFB f).present :=
  { h with display := (absurd hi ·) }

theorem setMem (h : Frame i s t) {m : Memory} (hm : ∀ a, ¬storesTo i s a → Memory.byteAt m a = Memory.byteAt s.mem a) :
    Frame i s (t.setMem m) :=
  { h with mem := hm }

theorem nextAnswer (h : Frame i s t) : Frame i s t.nextAnswer :=
  { h with }

theorem raise (h : Frame i s t) (hi : mayStop i) (c : StopCause) : Frame i s (t.raise c i) :=
  { h with stop := (absurd hi ·) }

theorem withRange {base len : Nat} {f : State → State} (hi : mayStop i)
    (hf : len = 0 ∨ base + len ≤ Config.memSize → Frame i s (f s)) : Frame i s (s.withRange base len i f) := by
  rcases s.withRange_cases base len i f with ⟨-, -, hstop⟩ | ⟨hgood, hrun⟩
  · rw [hstop]
    exact (refl i s).raise hi _
  · rw [hrun]
    exact hf hgood

theorem skipOnKey {k : Byte} {want : Bool} (hpc : writesPc i) (hi : mayStop i) : Frame i s (s.skipOnKey k want i) := by
  rcases s.skipOnKey_cases k want i with ⟨-, hstop⟩ | ⟨key, -, hskip⟩
  · rw [hstop]
    exact (refl i s).raise hi _
  · rw [hskip]
    exact ((refl i s).skipIf hpc _).nextAnswer

/-- Bytes that are written where the rule of `i` stores, at rising addresses that all exist. -/
theorem setMem_writeBytes {a : Nat} {vs : List Byte} (hgood : a + vs.length ≤ Config.memSize)
    (hi : ∀ b, a ≤ b ∧ b < a + vs.length → storesTo i s b) : Frame i s (s.setMem (Memory.writeBytes s.mem a vs)) :=
  (refl i s).setMem fun b hb => by
    have hout : ¬(a ≤ b ∧ b < a + vs.length) := fun hin => hb (hi b hin)
    rw [Memory.byteAt_writeBytes vs s.mem a b hgood, dif_neg hout]

/-! ### The instructions whose meaning has cases -/

theorem exec_ret {z : Nibble} (h : exec (.ret z) s = .next t) : Frame (.ret z) s t := by
  cases hpop : s.stk.pop with
  | none =>
    rw [exec_ret_of_pop_none z hpop] at h
    cases h
    exact (refl _ s).raise (.inr (.inl ⟨z, rfl⟩)) _
  | some p =>
    rw [exec_ret_of_pop_some z hpop] at h
    cases h
    exact ((refl _ s).setStk (.inr ⟨z, rfl⟩) _).setPc (.inl ⟨z, rfl⟩) _

theorem exec_call {nnn : BitVec 12} (h : exec (.call nnn) s = .next t) : Frame (.call nnn) s t := by
  cases hpush : s.stk.push s.pc with
  | none =>
    rw [exec_call_of_push_none nnn hpush] at h
    cases h
    exact (refl _ s).raise (.inl ⟨nnn, rfl⟩) _
  | some k =>
    rw [exec_call_of_push_some nnn hpush] at h
    cases h
    exact ((refl _ s).setStk (.inl ⟨nnn, rfl⟩) _).setPc (.inr (.inr (.inl ⟨nnn, rfl⟩))) _

theorem exec_waitKey {x : RegIdx} (h : exec (.waitKey x) s = .next t) : Frame (.waitKey x) s t := by
  cases hkey : Config.pressedKey s.oracleIx with
  | none =>
    have ht : t = (s.setPc (s.pc - 2)).nextAnswer := by simpa [exec, execWaitKey, hkey] using h.symm
    rw [ht]
    exact ((refl _ s).setPc (by simp [writesPc]) _).nextAnswer
  | some k =>
    have ht : t = (s.setV x (keyValue k)).nextAnswer := by simpa [exec, execWaitKey, hkey] using h.symm
    rw [ht]
    exact ((refl _ s).setV (by simp [writesReg]) _).nextAnswer

theorem regsLoaded (x : RegIdx) : Frame (.loadRegs x) s (s.setRegs (s.regsLoaded x)) :=
  (refl _ s).setRegs fun r hr => by
    have hgt : ¬r ≤ x := hr
    simp [State.regsLoaded, hgt]

end Frame

theorem exec_frame {i : Instr} {s t : State} (h : exec i s = .next t) : Frame i s t := by
  cases i
  case ret => exact Frame.exec_ret h
  case call => exact Frame.exec_call h
  case waitKey => exact Frame.exec_waitKey h
  all_goals cases h
  case clear z => exact (Frame.refl _ s).setFB_present (.inl ⟨z, rfl⟩) _
  case jump | jumpPlusV0 => exact (Frame.refl _ s).setPc (by simp [writesPc]) _
  case skipEq | skipNe | skipEqReg | skipNeReg => exact (Frame.refl _ s).skipIf (by simp [writesPc]) _
  case load | addImm | move | or | and | xor | loadDelay => exact (Frame.refl _ s).setV (by simp [writesReg]) _
  case rand => exact ((Frame.refl _ s).setV (by simp [writesReg]) _).nextAnswer
  case add | sub | shr | subn | shl => exact ((Frame.refl _ s).setV (by simp [writesReg]) _).setV (by simp [writesReg, vf]) _
  case loadI | addI | loadFontAddr => exact (Frame.refl _ s).setI (by simp [writesI]) _
  case skipKeyPressed | skipKeyNotPressed => exact Frame.skipOnKey (by simp [writesPc]) (by simp [mayStop])
  case storeDelay x => exact { Frame.refl _ s with dt := (absurd rfl <| · x) }
  case storeSound x => exact { Frame.refl _ s with st := (absurd rfl <| · x) }
  case draw x y n =>
    exact .withRange (by simp [mayStop]) fun _ =>
      ((Frame.refl _ s).setV (by simp [writesReg, vf]) _).setFB_present (.inr ⟨x, y, n, rfl⟩) _
  case storeBcd x =>
    exact .withRange (by simp [mayStop]) fun hgood =>
      .setMem_writeBytes (hgood.resolve_left (by decide)) fun _ hb => hb
  case storeRegs x =>
    refine .withRange (by simp [mayStop]) fun hgood => .setMem_writeBytes ?_ fun b hb => ?_
    · rw [State.length_regsUpTo]
      exact hgood.resolve_left (by omega)
    · rwa [State.length_regsUpTo] at hb
  case loadRegs x => exact .withRange (by simp [mayStop]) fun _ => .regsLoaded x
  case noop => exact Frame.refl _ s

/-- Settles O21: each meaning is made of updates its rule names. -/
theorem instructionsChangeOnlyWhatTheirRuleNames : Obligations.InstructionsChangeOnlyWhatTheirRuleNames := by
  intro i s t h
  obtain ⟨hreg, hpc, hindex, hdt, hst, hstk, hdisplay, hmem, hstop⟩ := exec_frame h
  exact ⟨hreg, hpc, hindex, hdt, hst, hstk, hdisplay, hmem, hstop⟩

end Sys2Proof.Machine

/-! # Control flow (40_control_flow.md): call and return, jumps, the register skips -/

namespace Sys2Proof.Machine

/-! ## call and return (40_control_flow.md R100, R102) -/

/-- A stack with room takes the pushed value as its last entry (10_state.md R38). -/
theorem CallStack.push_of_length_lt {k : CallStack} (a : Addr) (h : k.toList.length < Config.stackDepth) :
    ∃ k', k.push a = some k' ∧ k'.toList = k.toList ++ [a] := by
  rw [CallStack.length_toList] at h
  cases hpush : k.push a with
  | none => exact absurd (CallStack.push_eq_none.mp hpush) (Nat.ne_of_lt h)
  | some k' => exact ⟨k', rfl, CallStack.toList_of_push hpush⟩

/-- A stack with a last entry gives it and keeps the entries below it (10_state.md R39). -/
theorem CallStack.pop_of_toList_eq {k : CallStack} {rest : List Addr} {a : Addr} (h : k.toList = rest ++ [a]) :
    ∃ k', k.pop = some (a, k') ∧ k'.toList = rest := by
  cases hpop : k.pop with
  | none =>
    rw [CallStack.toList_eq_nil.mpr (CallStack.pop_eq_none.mp hpop)] at h
    simp at h
  | some p =>
    obtain ⟨v, k'⟩ := p
    have hlist : k'.toList ++ [v] = rest ++ [a] := (CallStack.toList_of_pop hpop).symm.trans h
    obtain ⟨hrest, htop⟩ := List.append_inj' hlist rfl
    exact ⟨k', by rw [List.singleton_inj.mp htop], hrest⟩

/-- Settles O24: the push succeeds exactly when the stack has room, and appends PC. -/
theorem callPushesTheReturnAddress : Obligations.CallPushesTheReturnAddress := by
  intro s nnn
  constructor
  · intro hroom
    obtain ⟨k, hpush, hlist⟩ := CallStack.push_of_length_lt s.pc hroom
    exact ⟨_, exec_call_of_push_some nnn hpush, rfl, hlist, rfl⟩
  · intro hfull
    rw [CallStack.length_toList] at hfull
    exact exec_call_of_push_none nnn (CallStack.push_eq_none.mpr hfull)

/-- Settles O25: the pop succeeds exactly when the stack has an entry, and removes the last one. -/
theorem returnPopsIntoPc : Obligations.ReturnPopsIntoPc := by
  intro s z
  constructor
  · intro rest a hstk
    obtain ⟨k, hpop, hrest⟩ := CallStack.pop_of_toList_eq hstk
    exact ⟨_, exec_ret_of_pop_some z hpop, rfl, hrest, rfl⟩
  · intro hnil
    exact exec_ret_of_pop_none z (CallStack.pop_eq_none.mpr (CallStack.toList_eq_nil.mp hnil))

/-! ## Jumps (40_control_flow.md R101, R107) -/

@[simp] theorem toNat_zextAddr (nnn : BitVec 12) : (zextAddr nnn).toNat = nnn.toNat :=
  BitVec.toNat_setWidth_of_le (by decide)

@[simp] theorem toNat_zextByte (b : Byte) : (zextByte b).toNat = b.toNat :=
  BitVec.toNat_setWidth_of_le (by decide)

/-- A 12-bit base and an 8-bit offset have a 16-bit sum. -/
theorem toNat_zextAddr_add_zextByte (nnn : BitVec 12) (b : Byte) :
    (zextAddr nnn + zextByte b).toNat = nnn.toNat + b.toNat := by
  have hbase := zextAddr_le nnn
  have hoffset := zextByte_le b
  rw [BitVec.toNat_add_of_lt (by omega), toNat_zextAddr, toNat_zextByte]

/-- Settles O22: each jump sets PC alone, and the sum with V0 does not wrap. -/
theorem jumpsSetPc : Obligations.JumpsSetPc := by
  intro s nnn
  exact ⟨rfl, s.setPc (zextAddr nnn + zextByte (s.reg 0)), rfl, rfl, toNat_zextAddr_add_zextByte nnn (s.reg 0)⟩

/-! ## Skips on registers (40_control_flow.md R103 to R106) -/

theorem State.skipIf_beq (s : State) (a b : Byte) :
    s.skipIf (a == b) = { s with pc := if a = b then s.pc + 2 else s.pc } := by
  by_cases h : a = b <;> simp [State.skipIf, State.setPc, h]

theorem State.skipIf_bne (s : State) (a b : Byte) :
    s.skipIf (a != b) = { s with pc := if a = b then s.pc else s.pc + 2 } := by
  by_cases h : a = b <;> simp [State.skipIf, State.setPc, h]

/-- Settles O23: each skip is `skipIf` of its comparison, which the ignored nibble does not enter. -/
theorem skipsMovePcPastOneInstruction : Obligations.SkipsMovePcPastOneInstruction := by
  intro s x y nn z
  exact ⟨congrArg Host.Outcome.next (s.skipIf_beq (s.reg x) nn), congrArg Host.Outcome.next (s.skipIf_bne (s.reg x) nn),
    congrArg Host.Outcome.next (s.skipIf_beq (s.reg x) (s.reg y)),
    congrArg Host.Outcome.next (s.skipIf_bne (s.reg x) (s.reg y))⟩

end Sys2Proof.Machine

/-! # Loads, ALU, shifts, random (41_alu.md) -/

namespace Sys2Proof.Machine

/-! ## Results with a flag (41_alu.md R110, R117 to R121) -/

/-- The flag is written last, so the result is read from V[x] only when x is not 0xF. -/
theorem writesResultAndFlag_of_exec {i : Instr} {s : State} {x : RegIdx} {b : Byte} {c : Bool} {result flag : Nat}
    (he : exec i s = .next (s.setResultAndFlag x b c)) (hresult : b.toNat = result) (hflag : c.toNat = flag) :
    WritesResultAndFlag i s x result flag := by
  refine ⟨s.setResultAndFlag x b c, he, rfl, fun r hx (hvf : r ≠ vf) => ?_, fun (hvf : x ≠ vf) => ?_, ?_⟩
  · rw [State.setResultAndFlag_reg, if_neg hvf, if_neg hx]
  · rw [State.setResultAndFlag_reg, if_neg hvf, if_pos rfl, hresult]
  · rw [← vf, State.setResultAndFlag_reg, if_pos rfl, flagByte_toNat, hflag]

/-- The difference of two bytes as the statements write it: the minuend is raised by 2^8 before the subtraction. -/
theorem toNat_sub_byte (a b : Byte) : (a - b).toNat = (2 ^ 8 + a.toNat - b.toNat) % 2 ^ 8 := by
  have hle : b.toNat ≤ 2 ^ 8 := b.isLt.le
  rw [BitVec.toNat_sub, Nat.sub_add_comm hle]

theorem toNat_ushiftRight_one (a : Byte) : (a >>> 1).toNat = a.toNat / 2 := by
  rw [BitVec.toNat_ushiftRight, Nat.shiftRight_one]

theorem toNat_shiftLeft_one (a : Byte) : (a <<< 1).toNat = a.toNat * 2 % 2 ^ 8 := by
  rw [BitVec.toNat_shiftLeft, Nat.shiftLeft_eq, Nat.pow_one]

/-- Settles O28: the sum and the difference mod 2^8, with the carry and the not-borrow as flags. -/
theorem addAndSubtractSetVfToCarryOrNotBorrow : Obligations.AddAndSubtractSetVfToCarryOrNotBorrow := by
  rintro s x y _ _ rfl rfl
  exact ⟨writesResultAndFlag_of_exec rfl (BitVec.toNat_add _ _) (carryOf_toNat _ _),
    writesResultAndFlag_of_exec rfl (toNat_sub_byte _ _) (notBorrowOf_toNat _ _)⟩

/-- Settles O29: subtraction with the operands exchanged, V[x] still the destination. -/
theorem reverseSubtractSetsVfToNotBorrow : Obligations.ReverseSubtractSetsVfToNotBorrow := by
  rintro s x y _ _ rfl rfl
  exact writesResultAndFlag_of_exec rfl (toNat_sub_byte _ _) (notBorrowOf_toNat _ _)

/-- Settles O30: half and double of the old V[x], with its bit 0 and its bit 7 as flags; y does not enter. -/
theorem shiftsSetVfToTheBitShiftedOut : Obligations.ShiftsSetVfToTheBitShiftedOut := by
  rintro s x y _ rfl
  exact ⟨writesResultAndFlag_of_exec rfl (toNat_ushiftRight_one _) (shiftedOutRight_toNat _),
    writesResultAndFlag_of_exec rfl (toNat_shiftLeft_one _) (shiftedOutLeft_toNat _)⟩

/-! ## Results without a flag (41_alu.md R111 to R116) -/

theorem add_byte_eq_ofNat_mod (a b : Byte) : a + b = BitVec.ofNat 8 ((a.toNat + b.toNat) % 2 ^ 8) := by
  rw [← BitVec.toNat_add, BitVec.ofNat_toNat, BitVec.setWidth_eq]

/-- Settles O27: each of the six is one write of V[x]; only the sum of add-imm is spelled in another way. -/
theorem flaglessResultsGoToVx : Obligations.FlaglessResultsGoToVx := by
  intro s x y nn
  have haddImm : exec (.addImm x nn) s =
      .next { s with v := s.v.set x.val (BitVec.ofNat 8 (((s.reg x).toNat + nn.toNat) % 2 ^ 8)) } := by
    rw [← add_byte_eq_ofNat_mod]
    rfl
  exact ⟨rfl, haddImm, rfl, rfl, rfl, rfl⟩

/-! ## The random byte (41_alu.md R122) -/

/-- A mask's bits are all set in its OR with any byte. -/
theorem or_and_mask (mask r : Byte) : (mask ||| r) &&& mask = mask := by
  ext k hk
  simp +contextual

/-- Settles O31: one write of V[x] and one answer taken; V[x] reads back as the OR, which keeps the mask's bits. -/
theorem randOrsAFreeByte : Obligations.RandOrsAFreeByte := by
  intro s x nn
  refine ⟨_, (s.setV x (nn ||| Config.randByte s.oracleIx)).nextAnswer, rfl, rfl, rfl, ?_⟩
  rw [State.nextAnswer_reg, State.setV_reg_self, or_and_mask]

end Sys2Proof.Machine

/-! # Index register and memory transfer (42_index_memory.md) -/

namespace Sys2Proof.Machine

/-! ## The two outcomes of an instruction with a range check (20_memory.md R66) -/

section RangeCheck

variable {s : State} {base len : Nat} {i : Instr} {f : State → State} (he : exec i s = .next (s.withRange base len i f))
include he

/-- The whole range exists: the instruction runs. -/
theorem exec_of_range_ok (hgood : base + len ≤ Config.memSize) : exec i s = .next (f s) := by
  rw [he, State.withRange, firstOutOfRange_none hgood]

/-- The range passes the last address: the instruction stops at the lowest address that does not exist. -/
theorem stopsWith_of_range_bad (hlen : 0 < len) (hbad : Config.memSize < base + len) :
    StopsWith i s (.memoryOutOfRange (max base Config.memSize)) := by
  rw [StopsWith, he, State.withRange, firstOutOfRange_some hlen hbad]
  rfl

end RangeCheck

/-! ## store-bcd (42_index_memory.md R133) -/

/-- Each digit fits a byte. -/
theorem map_toNat_bcdDigits (b : Byte) :
    (bcdDigits b).map BitVec.toNat = [b.toNat / 100, b.toNat / 10 % 10, b.toNat % 10] := by
  have hb := b.isLt
  have hhundreds : b.toNat / 100 < 2 ^ 8 := by omega
  have htens : b.toNat / 10 % 10 < 2 ^ 8 := by omega
  have hones : b.toNat % 10 < 2 ^ 8 := by omega
  simp only [bcdDigits, List.map_cons, List.map_nil, BitVec.toNat_ofNat, Nat.mod_eq_of_lt hhundreds,
    Nat.mod_eq_of_lt htens, Nat.mod_eq_of_lt hones]

/-- The `k`-th of the bytes just written. -/
theorem Memory.byteAt_writeBytes_add {vs : List Byte} {a k : Nat} (m : Memory) (h : a + vs.length ≤ Config.memSize)
    (hk : k < vs.length) : Memory.byteAt (Memory.writeBytes m a vs) (a + k) = vs[k] := by
  rw [Memory.byteAt_writeBytes vs m a _ h, dif_pos ⟨by omega, by omega⟩]
  simp

/-- Memory after store-bcd, at the address of the `k`-th digit. -/
theorem toNat_byteAt_storedBcd {a k : Nat} (m : Memory) (b : Byte) (h : a + 3 ≤ Config.memSize) (hk : k < 3) :
    (Memory.byteAt (Memory.writeBytes m a (bcdDigits b)) (a + k)).toNat =
      [b.toNat / 100, b.toNat / 10 % 10, b.toNat % 10][k] := by
  rw [Memory.byteAt_writeBytes_add m h hk]
  exact (List.getElem_map BitVec.toNat).symm.trans (List.getElem_of_eq (map_toNat_bcdDigits b) hk)

/-- Settles O33: the digits are read back one by one, every other byte is in the frame, and the lowest bad address is the
first one or MEM_SIZE. -/
theorem storeBcdWritesThreeDigits : Obligations.StoreBcdWritesThreeDigits := by
  rintro s x _ rfl
  constructor
  · intro hrange
    have hgood : s.i.toNat + 3 ≤ Config.memSize := hrange
    have hexec := exec_of_range_ok (i := .storeBcd x) rfl hgood
    have hdigit (k : Nat) (hk : k < 3) := toNat_byteAt_storedBcd s.mem (s.reg x) hgood hk
    exact ⟨_, hexec, rfl, hdigit 0 (by decide), hdigit 1 (by decide), hdigit 2 (by decide), (exec_frame hexec).mem⟩
  · intro hrange
    refine ⟨_, stopsWith_of_range_bad rfl (by decide) (Nat.lt_succ_of_le hrange), ?_⟩
    rw [Config.memSize_eq]
    exact ⟨by omega, by omega, by omega, fun b hlo hhi => by omega⟩

/-! ## store-regs and load-regs (42_index_memory.md R134, R135) -/

/-- Settles O34: each register is read back, and every other byte is in the frame. -/
theorem storeRegsWritesVZeroToVx : Obligations.StoreRegsWritesVZeroToVx := by
  intro s x
  constructor
  · intro hrange
    have hexec := exec_storeRegs_of_range_ok hrange
    exact ⟨_, hexec, rfl, fun r hr => byteAt_storedRegs hrange hr, (exec_frame hexec).mem⟩
  · intro hrange
    exact stopsWith_of_range_bad rfl (Nat.succ_pos _) (Nat.lt_succ_of_le hrange)

theorem exec_loadRegs_of_range_ok {s : State} {x : RegIdx} (h : s.i.toNat + x.val < Config.memSize) :
    exec (.loadRegs x) s = .next (s.setRegs (s.regsLoaded x)) :=
  exec_of_range_ok (f := fun s => s.setRegs (s.regsLoaded x)) rfl h

theorem State.regsLoaded_reg {s : State} {x r : RegIdx} (h : r ≤ x) :
    (s.setRegs (s.regsLoaded x)).reg r = Memory.byteAt s.mem (s.i.toNat + r.val) := by
  simp [State.regsLoaded, h]

/-- Settles O35: each register up to V[x] is its byte of memory, and every other one is in the frame. -/
theorem loadRegsReadsVZeroToVx : Obligations.LoadRegsReadsVZeroToVx := by
  intro s x
  constructor
  · intro hrange
    have hexec := exec_loadRegs_of_range_ok hrange
    exact ⟨_, hexec, rfl, fun r hr => State.regsLoaded_reg hr, (exec_frame hexec).reg⟩
  · intro hrange
    exact stopsWith_of_range_bad rfl (Nat.succ_pos _) (Nat.lt_succ_of_le hrange)

/-- Settles O36: load-regs reads the address at which store-regs left V[r]. -/
theorem loadRegsInvertsStoreRegs : Obligations.LoadRegsInvertsStoreRegs := by
  intro s t u w x hrange hstore hmem hi hload r hr
  rw [exec_storeRegs_of_range_ok hrange] at hstore
  cases hstore
  rw [exec_loadRegs_of_range_ok (by rwa [hi])] at hload
  cases hload
  rw [State.regsLoaded_reg hr, hmem, hi, State.setMem_mem, byteAt_storedRegs hrange hr]

/-! ## The index register (42_index_memory.md R130 to R132) -/

theorem add_zextByte_eq_ofNat_mod (a : Addr) (b : Byte) :
    a + zextByte b = BitVec.ofNat 16 ((a.toNat + b.toNat) % 2 ^ 16) := by
  rw [← toNat_zextByte, ← BitVec.toNat_add, BitVec.ofNat_toNat, BitVec.setWidth_eq]

/-- The highest glyph address, for the byte 255, is below 2^16. -/
theorem toNat_fontAddr (b : Byte) : (fontAddr b).toNat = 0x050 + 5 * b.toNat := by
  have hb := b.isLt
  have hfits : Config.fontBase + Config.fontGlyphBytes * b.toNat < 2 ^ 16 := by
    simp only [Config.fontBase_eq, Config.fontGlyphBytes_eq]
    omega
  exact Nat.mod_eq_of_lt hfits

/-- Settles O32: each of the three is one write of I. -/
theorem indexRegisterWrites : Obligations.IndexRegisterWrites := by
  intro s x nnn
  have haddI : exec (.addI x) s =
      .next { s with i := BitVec.ofNat 16 ((s.i.toNat + (s.reg x).toNat) % 2 ^ 16) } := by
    rw [← add_zextByte_eq_ofNat_mod]
    rfl
  exact ⟨rfl, haddI, s.setI (fontAddr (s.reg x)), rfl, rfl, toNat_fontAddr (s.reg x)⟩

end Sys2Proof.Machine

/-! # Display (43_display.md): composition, clear, draw -/

namespace Sys2Proof.Machine

/-- Settles O41: a composition is one pixel write. -/
theorem composeXorsOnePixel : Obligations.ComposeXorsOnePixel := by
  intro fb bit cx px cy py
  refine ⟨beq_eq_decide _ _, ?_, fun hne => ?_⟩
  · exact (pixel_setPixel ..).trans (if_pos ⟨rfl, rfl⟩)
  · have hother : ¬(px = cx ∧ py = cy) := fun ⟨hx, hy⟩ => hne (Prod.ext hx hy)
    exact (pixel_setPixel ..).trans (if_neg hother)

/-- Settles O42: clear sets the blank framebuffer and presents it. -/
theorem clearTurnsEveryPixelOff : Obligations.ClearTurnsEveryPixelOff :=
  fun _ _ => ⟨_, rfl, rfl, pixel_blankFramebuffer⟩

/-! ## The bytes of a sprite (43_display.md R142) -/

@[simp] theorem State.length_spriteBytes (s : State) (n : Nibble) : (s.spriteBytes n).length = n.toNat := by
  simp [State.spriteBytes]

theorem State.getD_spriteBytes (s : State) {n : Nibble} {r : Nat} (h : r < n.toNat) :
    (s.spriteBytes n).getD r 0 = Memory.byteAt s.mem (s.i.toNat + r) := by
  simp [State.spriteBytes, h]

/-! ## What a draw that completes leaves (43_display.md R142) -/

/-- Pixel (cx, cy) lies in the rectangle of the draw. -/
abbrev State.drawCovers (s : State) (x y : RegIdx) (n : Nibble) (cx : Fin 64) (cy : Fin 32) : Prop :=
  inSprite ((s.reg x).toNat % 64) ((s.reg y).toNat % 32) n.toNat cx cy

/-- The sprite bit of the draw for pixel (cx, cy) of its rectangle. -/
abbrev State.drawBit (s : State) (x y : RegIdx) (cx : Fin 64) (cy : Fin 32) : Bool :=
  spriteBit s.mem s.i.toNat ((s.reg x).toNat % 64) ((s.reg y).toNat % 32) cx cy

/-- The framebuffer and the collision that a draw computes from the old state. -/
def State.drawn (s : State) (x y : RegIdx) (n : Nibble) : Framebuffer × Bool :=
  drawSprite (s.spriteBytes n) ((s.reg x).toNat % 64) ((s.reg y).toNat % 32) (s.fb, false)

/-- The state after a draw whose sprite bytes all exist. -/
def State.afterDraw (s : State) (x y : RegIdx) (n : Nibble) : State :=
  ((s.setV vf (flagByte (s.drawn x y n).2)).setFB (s.drawn x y n).1).present

section Draw

variable {s : State} {x y : RegIdx} {n : Nibble}

theorem exec_draw_of_range_ok (h : n.toNat = 0 ∨ s.i.toNat + n.toNat ≤ Config.memSize) :
    exec (.draw x y n) s = .next (s.afterDraw x y n) := by
  have hexec : exec (.draw x y n) s =
      .next (s.withRange s.i.toNat n.toNat (.draw x y n) (·.afterDraw x y n)) := rfl
  rw [hexec, State.withRange, firstOutOfRange_eq_none.mpr h]

theorem stopsWith_draw_of_range_bad (h : ¬(n.toNat = 0 ∨ s.i.toNat + n.toNat ≤ Config.memSize)) :
    StopsWith (.draw x y n) s (.memoryOutOfRange (max s.i.toNat Config.memSize)) :=
  stopsWith_of_range_bad rfl (by omega) (by omega)

/-- Every pixel is XORed with its sprite bit, which is 0 outside the rectangle. -/
theorem pixel_drawn (cx : Fin 64) (cy : Fin 32) :
    pixel (s.drawn x y n).1 cx cy =
      (pixel s.fb cx cy ^^ (decide (s.drawCovers x y n cx cy) && s.drawBit x y cx cy)) := by
  rw [State.drawn, pixel_drawSprite, State.length_spriteBytes]
  by_cases hin : s.drawCovers x y n cx cy
  · obtain ⟨-, -, htop, hbottom⟩ := hin
    rw [State.getD_spriteBytes s (by omega), State.drawBit, spriteBit]
  · simp only [decide_eq_false hin, Bool.false_and]

theorem pixel_drawn_of_inSprite {cx : Fin 64} {cy : Fin 32} (h : s.drawCovers x y n cx cy) :
    pixel (s.drawn x y n).1 cx cy = (pixel s.fb cx cy ^^ s.drawBit x y cx cy) := by
  rw [pixel_drawn, decide_eq_true h, Bool.true_and]

theorem pixel_drawn_of_not_inSprite {cx : Fin 64} {cy : Fin 32} (h : ¬s.drawCovers x y n cx cy) :
    pixel (s.drawn x y n).1 cx cy = pixel s.fb cx cy := by
  rw [pixel_drawn, decide_eq_false h, Bool.false_and, Bool.xor_false]

/-- The collision as seen in the new framebuffer (R144(b)). -/
theorem drawn_collides_iff_off :
    (s.drawn x y n).2 = true ↔ ∃ cx cy, s.drawCovers x y n cx cy ∧ pixel (s.drawn x y n).1 cx cy = false := by
  rw [State.drawn, drawSprite_collides, State.length_spriteBytes]
  simp only [Bool.false_eq_true, false_or]

/-- The collision as seen in the old framebuffer: a pixel of the rectangle ends off exactly when it equalled its bit. -/
theorem drawn_collides_iff_eq_bit :
    (s.drawn x y n).2 = true ↔ ∃ cx cy, s.drawCovers x y n cx cy ∧ pixel s.fb cx cy = s.drawBit x y cx cy := by
  rw [drawn_collides_iff_off]
  refine exists_congr fun cx => exists_congr fun cy => and_congr_right fun hin => ?_
  rw [pixel_drawn_of_inSprite hin, bne_eq_false_iff_eq]

@[simp] theorem State.afterDraw_fb : (s.afterDraw x y n).fb = (s.drawn x y n).1 := rfl

@[simp] theorem State.afterDraw_reg_vf : (s.afterDraw x y n).reg 0xF = flagByte (s.drawn x y n).2 :=
  State.setV_reg_self s vf _

theorem State.afterDraw_reg_ne {r : RegIdx} (h : r ≠ 0xF) : (s.afterDraw x y n).reg r = s.reg r :=
  State.setV_reg_ne s _ h

end Draw

/-! ## VF as the flag -/

theorem flagByte_eq_one_or_zero (c : Bool) : flagByte c = 1 ∨ flagByte c = 0 := by
  cases c
  · exact .inr rfl
  · exact .inl rfl

theorem flagByte_eq_one {c : Bool} : flagByte c = 1 ↔ c = true := by
  cases c <;> decide

/-! ## The obligations on draw (43_display.md R142, R144) -/

/-- Settles O43: the pixels and the collision of the computed framebuffer, and the two outcomes of the range check. -/
theorem drawClipsWrapsAndCollides : Obligations.DrawClipsWrapsAndCollides := by
  rintro s x y n _ _ rfl rfl
  constructor
  · intro hrange
    have hgood : n.toNat = 0 ∨ s.i.toNat + n.toNat ≤ Config.memSize := by
      rw [Config.memSize_eq]; omega
    refine ⟨_, exec_draw_of_range_ok hgood, fun cx cy => pixel_drawn_of_inSprite,
      fun cx cy => pixel_drawn_of_not_inSprite, fun hcollides => ?_, fun hclear => ?_,
      fun r => State.afterDraw_reg_ne, rfl⟩
    · rw [State.afterDraw_reg_vf, drawn_collides_iff_eq_bit.mpr hcollides]
      rfl
    · rw [State.afterDraw_reg_vf, Bool.eq_false_iff.mpr (mt drawn_collides_iff_eq_bit.mp hclear)]
      rfl
  · intro hpos hrange
    exact stopsWith_draw_of_range_bad (by rw [Config.memSize_eq]; omega)

/-- Settles O44: a draw that completes passed the range check, and its VF is the collision flag. -/
theorem drawCollidesWhenAPixelEndsOff : Obligations.DrawCollidesWhenAPixelEndsOff := by
  rintro s t x y n _ _ rfl rfl - hexec hstop
  by_cases hgood : n.toNat = 0 ∨ s.i.toNat + n.toNat ≤ Config.memSize
  · rw [exec_draw_of_range_ok hgood] at hexec
    cases hexec
    rw [State.afterDraw_reg_vf]
    exact ⟨flagByte_eq_one_or_zero _, flagByte_eq_one.trans drawn_collides_iff_off⟩
  · rw [stopsWith_draw_of_range_bad hgood] at hexec
    cases hexec
    cases hstop

/-- Settles O45: both draws pass the range check and XOR the same bits, or both stop and keep the framebuffer. -/
theorem drawTwiceRestoresTheFramebuffer : Obligations.DrawTwiceRestoresTheFramebuffer := by
  intro s t u w x y n hfirst hfb hi hmem hx hy hsecond
  by_cases hgood : n.toNat = 0 ∨ s.i.toNat + n.toNat ≤ Config.memSize
  · rw [exec_draw_of_range_ok hgood] at hfirst
    cases hfirst
    rw [exec_draw_of_range_ok (by rwa [hi])] at hsecond
    cases hsecond
    refine framebuffer_ext fun cx cy => ?_
    have hcovers : u.drawCovers x y n cx cy ↔ s.drawCovers x y n cx cy := by rw [State.drawCovers, hx, hy]
    have hbit : u.drawBit x y cx cy = s.drawBit x y cx cy := by rw [State.drawBit, hi, hmem, hx, hy]
    rw [State.afterDraw_fb, pixel_drawn, decide_eq_decide.mpr hcovers, hbit, hfb, State.afterDraw_fb, pixel_drawn,
      Bool.xor_assoc, Bool.xor_self, Bool.xor_false]
  · rw [stopsWith_draw_of_range_bad hgood] at hfirst
    cases hfirst
    rw [stopsWith_draw_of_range_bad (by rwa [hi])] at hsecond
    cases hsecond
    exact hfb

end Sys2Proof.Machine

/-! # Key input and the timer instructions (44_timers_input.md) -/

namespace Sys2Proof.Machine

/-- Settles O47: each of the three is one write, of V[x], DT or ST. -/
theorem timerInstructions : Obligations.TimerInstructions := fun _ _ => ⟨rfl, rfl, rfl⟩

/-! ## The skip that a key's answer decides (44_timers_input.md R150, R151) -/

theorem State.skipIf_eq_true (s : State) (c : Bool) :
    s.skipIf (c == true) = { s with pc := if c then s.pc + 2 else s.pc } := by
  cases c <;> rfl

theorem State.skipIf_eq_false (s : State) (c : Bool) :
    s.skipIf (c == false) = { s with pc := if c then s.pc else s.pc + 2 } := by
  cases c <;> rfl

section KeyQuery

variable {k : Byte} (s : State) (want : Bool) (i : Instr)

theorem State.skipOnKey_of_lt (h : k.toNat < Config.numKeys) :
    s.skipOnKey k want i = (s.skipIf (Config.keyDown s.oracleIx ⟨k.toNat, h⟩ == want)).nextAnswer := by
  rcases s.skipOnKey_cases k want i with ⟨hge, -⟩ | ⟨key, hkey, hskip⟩
  · exact absurd h (Nat.not_lt.mpr hge)
  · obtain rfl : key = ⟨k.toNat, h⟩ := Fin.ext hkey
    exact hskip

theorem State.skipOnKey_of_ge (h : Config.numKeys ≤ k.toNat) :
    s.skipOnKey k want i = s.raise (.keyOutOfRange k) i := by
  rcases s.skipOnKey_cases k want i with ⟨-, hstop⟩ | ⟨key, hkey, -⟩
  · exact hstop
  · exact absurd (hkey ▸ key.isLt) (Nat.not_lt.mpr h)

end KeyQuery

/-- Settles O49: a value below 16 is a key whose answer is the condition of `skipIf`, and any other value is raised. -/
theorem keySkipsAskTheInputSource : Obligations.KeySkipsAskTheInputSource := by
  intro s x
  refine ⟨fun hlt => ⟨_, rfl, congrArg Host.Outcome.next ?pressed, congrArg Host.Outcome.next ?notPressed⟩,
    fun hge => ⟨congrArg Host.Outcome.next (s.skipOnKey_of_ge _ _ hge),
      congrArg Host.Outcome.next (s.skipOnKey_of_ge _ _ hge)⟩⟩
  case pressed => exact (s.skipOnKey_of_lt _ _ hlt).trans (congrArg State.nextAnswer (s.skipIf_eq_true _))
  case notPressed => exact (s.skipOnKey_of_lt _ _ hlt).trans (congrArg State.nextAnswer (s.skipIf_eq_false _))

/-! ## The poll for a pressed key (44_timers_input.md R153) -/

theorem exec_waitKey_of_none {s : State} (x : RegIdx) (h : Config.pressedKey s.oracleIx = none) :
    exec (.waitKey x) s = .next (s.setPc (s.pc - 2)).nextAnswer := by
  simp only [exec, execWaitKey, h]

theorem exec_waitKey_of_some {s : State} {k : Key} (x : RegIdx) (h : Config.pressedKey s.oracleIx = some k) :
    exec (.waitKey x) s = .next (s.setV x (keyValue k)).nextAnswer := by
  simp only [exec, execWaitKey, h]

/-- Settles O50: either answer gives a next state, PC moved back or the key's number in V[x]. -/
theorem waitKeyPollsOnce : Obligations.WaitKeyPollsOnce := by
  intro s x
  cases hkey : Config.pressedKey s.oracleIx with
  | none => exact ⟨none, _, rfl, exec_waitKey_of_none x hkey, fun _ => rfl, nofun⟩
  | some k => exact ⟨some k, _, rfl, exec_waitKey_of_some x hkey, nofun, fun | _, rfl => rfl⟩

end Sys2Proof.Machine

/-! # Stops, Ticks and the output log (60_exceptions.md) -/

namespace Sys2Proof.Machine

/-! ## The stop table (60_exceptions.md R170 to R174) -/

/-- Settles O14: the table of R170, read off the definitions cause by cause. -/
theorem stopCodesNamesAndInfo : Obligations.StopCodesNamesAndInfo :=
  fun _ _ _ => ⟨⟨rfl, rfl, rfl⟩, ⟨rfl, rfl, rfl⟩, ⟨rfl, rfl, rfl⟩, ⟨rfl, rfl, rfl⟩⟩

/-- The table of R170 for a stop in execution: at `s`, instruction `i` raises the cause. -/
inductive Raises (s : State) : Instr → StopCause → Prop where
  | overflow (nnn : BitVec 12) (hfull : s.stk.toList.length = Config.stackDepth) :
      Raises s (.call nnn) (.stackOverflow s.pc)
  | underflow (z : Nibble) (hempty : s.stk.toList = []) : Raises s (.ret z) .stackUnderflow
  | range {i : Instr} {a : Nat} (hi : checksRange i) (ha : Config.memSize ≤ a) : Raises s i (.memoryOutOfRange a)
  | key {i : Instr} {x : RegIdx} (hi : i = .skipKeyPressed x ∨ i = .skipKeyNotPressed x)
      (hk : Config.numKeys ≤ (s.reg x).toNat) : Raises s i (.keyOutOfRange (s.reg x))

/-- From `s` to `t`, instruction `i` left STOP as it was, or did nothing but raise a cause of the table. -/
def KeepsStopOrRaises (i : Instr) (s t : State) : Prop :=
  t.stop = s.stop ∨ ∃ c, Raises s i c ∧ t = s.raise c i

namespace KeepsStopOrRaises

variable {i : Instr} {s t : State}

theorem exec_call {nnn : BitVec 12} (h : exec (.call nnn) s = .next t) : KeepsStopOrRaises (.call nnn) s t := by
  cases hpush : s.stk.push s.pc with
  | none =>
    have hfull := (CallStack.length_toList _).trans (CallStack.push_eq_none.mp hpush)
    rw [exec_call_of_push_none nnn hpush] at h
    cases h
    exact .inr ⟨_, .overflow nnn hfull, rfl⟩
  | some k =>
    rw [exec_call_of_push_some nnn hpush] at h
    cases h
    exact .inl rfl

theorem exec_ret {z : Nibble} (h : exec (.ret z) s = .next t) : KeepsStopOrRaises (.ret z) s t := by
  cases hpop : s.stk.pop with
  | none =>
    have hempty := CallStack.toList_eq_nil.mpr (CallStack.pop_eq_none.mp hpop)
    rw [exec_ret_of_pop_none z hpop] at h
    cases h
    exact .inr ⟨_, .underflow z hempty, rfl⟩
  | some p =>
    rw [exec_ret_of_pop_some z hpop] at h
    cases h
    exact .inl rfl

theorem withRange {base len : Nat} {f : State → State} (hi : checksRange i) (hf : (f s).stop = s.stop) :
    KeepsStopOrRaises i s (s.withRange base len i f) := by
  rcases s.withRange_cases base len i f with ⟨-, -, hstop⟩ | ⟨-, hrun⟩
  · exact .inr ⟨_, .range hi (Nat.le_max_right _ _), hstop⟩
  · exact .inl (hrun ▸ hf)

theorem skipOnKey {x : RegIdx} {want : Bool} (hi : i = .skipKeyPressed x ∨ i = .skipKeyNotPressed x) :
    KeepsStopOrRaises i s (s.skipOnKey (s.reg x) want i) := by
  rcases s.skipOnKey_cases (s.reg x) want i with ⟨hk, hstop⟩ | ⟨key, -, hskip⟩
  · exact .inr ⟨_, .key hi hk, hstop⟩
  · exact .inl (hskip ▸ State.skipIf_stop s _)

end KeepsStopOrRaises

/-- The instructions that may not stop keep STOP by their frame; each of the others keeps it or raises its own cause. -/
theorem exec_keepsStopOrRaises {i : Instr} {s t : State} (h : exec i s = .next t) : KeepsStopOrRaises i s t := by
  by_cases hi : mayStop i
  · rcases hi with ⟨nnn, rfl⟩ | ⟨z, rfl⟩ | ⟨x, y, n, rfl⟩ | ⟨x, rfl⟩ | ⟨x, rfl⟩ | ⟨x, rfl⟩ | ⟨x, rfl⟩ | ⟨x, rfl⟩
    · exact .exec_call h
    · exact .exec_ret h
    all_goals cases h
    · exact .withRange (.inl ⟨x, y, n, rfl⟩) rfl
    · exact .withRange (.inr (.inl ⟨x, rfl⟩)) rfl
    · exact .withRange (.inr (.inr (.inl ⟨x, rfl⟩))) rfl
    · exact .withRange (.inr (.inr (.inr ⟨x, rfl⟩))) rfl
    · exact .skipOnKey (.inl rfl)
    · exact .skipOnKey (.inr rfl)
  · exact .inl ((exec_frame h).stop hi)

section Stopped

variable {i : Instr} {s t : State} {r : StopRecord} (hs : s.stop = none)
include hs

/-- An instruction that ends stopped did nothing but raise a cause of the table. -/
theorem exec_raises (h : exec i s = .next t) (hr : t.stop = some r) :
    ∃ c, Raises s i c ∧ t = s.raise c i ∧ r = ⟨c, s.pc - 2, some (encode i)⟩ := by
  rcases exec_keepsStopOrRaises h with hkeep | ⟨c, hc, rfl⟩
  · rw [hkeep, hs] at hr
    cases hr
  · exact ⟨c, hc, rfl, Option.some.inj hr.symm⟩

theorem exec_stop_eq (h : exec i s = .next t) (hr : t.stop = some r) :
    t = { s with stop := some r } ∧ r.fetchPc = s.pc - 2 ∧ r.opcode = some (encode i) := by
  obtain ⟨c, -, rfl, rfl⟩ := exec_raises hs h hr
  exact ⟨rfl, rfl, rfl⟩

end Stopped

/-- Settles O13: the cause that was raised is one of the table, which gives each cause its instructions. -/
theorem onlyListedInstructionsStop : Obligations.OnlyListedInstructionsStop := by
  intro i s t r hs h hr
  obtain ⟨c, hc, -, rfl⟩ := exec_raises hs h hr
  cases hc with
  | overflow nnn hfull => exact ⟨⟨nnn, rfl⟩, hfull, rfl⟩
  | underflow z hempty => exact ⟨⟨z, rfl⟩, hempty⟩
  | range hi ha => exact ⟨ha, hi⟩
  | key hi hk => exact ⟨hk, _, hi, rfl⟩

/-- Settles O12: a stop in execution is a raise from the state the fetch leaves, whose PC - 2 is the instruction's address. -/
theorem stoppingInstructionChangesNothingElse : Obligations.StoppingInstructionChangesNothingElse := by
  refine ⟨fun i s t r => exec_stop_eq, fun s t r h hr => ?_⟩
  have hend : ∀ u, step t ≠ .next u := fun u => by rw [step_of_stopped hr]; nofun
  obtain ⟨hs, ⟨a, hf, rfl⟩ | ⟨op, hf, he⟩⟩ := step_cases h
  · cases hr
    exact ⟨.inr ⟨a, hf, rfl, rfl, rfl⟩, rfl, hend⟩
  · obtain ⟨rfl, hpc, hop⟩ := exec_stop_eq (s := s.elapse.advancePc) hs he hr
    rw [encode_decode] at hop
    exact ⟨.inl ⟨op, hf, hop, rfl⟩, hpc.trans (BitVec.add_sub_cancel s.pc 2), hend⟩

/-! ## Ticks and the sound output (60_exceptions.md R177 to R179) -/

theorem tickTimer_eq (d : Byte) : tickTimer d = if 0 < d.toNat then d - 1 else d := by
  by_cases h : d = 0
  · subst h
    rfl
  · have hpos : 0 < d.toNat := Nat.pos_of_ne_zero fun e => h (BitVec.eq_of_toNat_eq e)
    rw [tickTimer, if_neg h, if_pos hpos]

theorem State.iterate_tick (n : Nat) (s : State) : State.tick^[n] s = s.ticks n := by
  induction n generalizing s with
  | zero => rfl
  | succ n ih => rw [Function.iterate_succ_apply, ih, State.ticks_succ]

/-- Settles O9: `ticks` is the iterated Tick, and `elapse` adds to it the advance of the answer index alone. -/
theorem ticksPrecedeTheFetch : Obligations.TicksPrecedeTheFetch := by
  refine ⟨fun s => ?_, fun s => ⟨_, rfl, ?_⟩⟩
  · rw [← tickTimer_eq, ← tickTimer_eq]
    rfl
  · rw [State.iterate_tick]
    rfl

theorem State.soundOn_iff (s : State) : s.soundOn = true ↔ 0 < s.st.toNat := by
  rw [State.soundOn, bne_iff_ne, Nat.pos_iff_ne_zero]
  exact not_congr BitVec.toNat_inj.symm

/-- Settles O48: n Ticks lower ST by n, down to 0. -/
theorem soundIsOnWhileTheSoundTimerRuns : Obligations.SoundIsOnWhileTheSoundTimerRuns := by
  intro s t x n h
  cases h
  have hst : ((s.setST (s.reg x)).ticks n).st.toNat = (s.reg x).toNat - n := tickTimes_toNat n (s.reg x)
  rw [State.iterate_tick, State.soundOn_iff, hst, Nat.sub_pos_iff_lt]

/-! ## The output log (60_exceptions.md R184) -/

/-- The event of a clear or a completed draw carries the framebuffer that the instruction leaves. -/
theorem presents_of_writesDisplay {i : Instr} {s t : State} (hi : writesDisplay i) (h : exec i s = .next t)
    (ht : t.stop = none) : t.presents = s.presents ++ [t.fb] := by
  rcases hi with ⟨z, rfl⟩ | ⟨x, y, n, rfl⟩
  · cases h
    rfl
  · by_cases hgood : n.toNat = 0 ∨ s.i.toNat + n.toNat ≤ Config.memSize
    · rw [exec_draw_of_range_ok hgood] at h
      cases h
      rfl
    · rw [stopsWith_draw_of_range_bad hgood] at h
      cases h
      cases ht

/-- Settles O46: a stop changes nothing but STOP, and an instruction that does not draw has the log in its frame. -/
theorem presentLogIsAppendOnly : Obligations.PresentLogIsAppendOnly := by
  refine ⟨rfl, fun s => rfl, fun i s t hs h => ⟨fun hi => presents_of_writesDisplay hi h, ?_⟩⟩
  rintro (hi | ht)
  · exact ((exec_frame h).display hi).2
  · obtain ⟨r, hr⟩ := Option.ne_none_iff_exists'.mp ht
    rw [(exec_stop_eq hs h hr).1]

end Sys2Proof.Machine

/-! # Hazards and the end of a run (70_reset_and_hazards.md) -/

namespace Sys2Proof.Machine

section Hazards

variable {s t : State} {op : Opcode} {x y : RegIdx}

/-- A step that fetched an opcode executed it (30_encoding.md R88). -/
theorem exec_of_step (hf : s.fetch = .ok op) (h : step s = .next t) : exec (decode op) s.elapse.advancePc = .next t := by
  obtain ⟨hs, -⟩ := step_cases h
  exact (step_of_fetch_ok hs hf).symm.trans h

/-- An instruction's own PC write replaces the advance of the fetch. -/
theorem State.advancePc_setPc (s : State) (a : Addr) : s.advancePc.setPc a = s.setPc a := rfl

theorem State.setPc_pc_self (s : State) : s.setPc s.pc = s := rfl

/-! ## store-delay, then load-delay (R195) -/

theorem dt_of_step_storeDelay (hf : s.fetch = .ok op) (hop : decode op = .storeDelay x) (h : step s = .next t) :
    t.dt = s.reg x := by
  have he := exec_of_step hf h
  rw [hop] at he
  cases he
  rfl

/-- What load-delay reads is DT after the Ticks of its own step. -/
theorem reg_of_step_loadDelay (hf : s.fetch = .ok op) (hop : decode op = .loadDelay y) (h : step s = .next t) :
    t.reg y = tickTimes (Config.ticksBefore s.oracleIx) s.dt := by
  have he := exec_of_step hf h
  rw [hop] at he
  cases he
  exact State.setV_reg_self _ y _

/-! ## The idle jump (R198) -/

theorem State.idle_iff : s.idle = true ↔
    ∃ op, s.fetch = .ok op ∧ decode op = .jump (nnnOf op) ∧ zextAddr (nnnOf op) = s.pc := by
  unfold State.idle
  cases s.fetch <;> simp

/-- The Ticks touch neither memory nor PC. -/
theorem State.elapse_idle (s : State) : s.elapse.idle = s.idle := rfl

/-- An idle core's step does no more than let its Ticks occur. -/
theorem step_of_idle (hs : s.stop = none) (hidle : s.idle = true) : step s = .next s.elapse := by
  obtain ⟨op, hf, hop, hpc⟩ := State.idle_iff.mp hidle
  calc step s = exec (.jump (nnnOf op)) s.elapse.advancePc := by rw [step_of_fetch_ok hs hf, hop]
    _ = .next (s.elapse.advancePc.setPc (zextAddr (nnnOf op))) := rfl
    _ = .next s.elapse := by rw [State.advancePc_setPc, hpc, ← s.elapse_pc, State.setPc_pc_self]

/-! ## The poll of wait-key (R196) -/

/-- Moving PC back to a wait-key undoes the advance of its fetch. -/
theorem State.advancePc_setPc_sub_two (s : State) : s.advancePc.setPc (s.advancePc.pc - 2) = s := by
  rw [State.advancePc_setPc, State.advancePc_pc, BitVec.add_sub_cancel, State.setPc_pc_self]

theorem eq_of_step_waitKey_of_none (hf : s.fetch = .ok op) (hop : decode op = .waitKey x) (h : step s = .next t)
    (hkey : Config.pressedKey (s.oracleIx + 1) = none) : t = s.elapse.nextAnswer := by
  have he := exec_of_step hf h
  rw [hop, exec_waitKey_of_none x hkey, State.advancePc_setPc_sub_two] at he
  exact (Host.Outcome.next.inj he).symm

theorem eq_of_step_waitKey_of_some {k : Key} (hf : s.fetch = .ok op) (hop : decode op = .waitKey x) (h : step s = .next t)
    (hkey : Config.pressedKey (s.oracleIx + 1) = some k) : t = (s.elapse.advancePc.setV x (keyValue k)).nextAnswer := by
  have he := exec_of_step hf h
  rw [hop, exec_waitKey_of_some x hkey] at he
  exact (Host.Outcome.next.inj he).symm

end Hazards

/-- Settles O10: load-delay reads the DT that store-delay wrote, after the Ticks between them, and a Tick never raises DT. -/
theorem loadDelayAfterStoreDelayNeverLarger : Obligations.LoadDelayAfterStoreDelayNeverLarger := by
  intro s t u op op' x y hf hop h hf' hop' h'
  rw [reg_of_step_loadDelay hf' hop' h', dt_of_step_storeDelay hf hop h]
  exact tickTimes_le _ _

/-- Settles O26: the jump sets PC back to what it was, so that the step is its Ticks alone. -/
theorem idleJumpChangesOnlyTheTimers : Obligations.IdleJumpChangesOnlyTheTimers := by
  intro s hs hidle
  exact ⟨s.elapse, step_of_idle hs hidle, rfl, s.elapse_idle.trans hidle⟩

/-- Settles O51: with no key the poll leaves PC and memory, which alone decide the next fetch; a key's number goes to V[x]. -/
theorem waitKeyIsFetchedAgain : Obligations.WaitKeyIsFetchedAgain := by
  intro s t op x hf hop h
  refine ⟨_, rfl, fun hnone => ?_, fun k hsome => ?_⟩
  · obtain rfl := eq_of_step_waitKey_of_none hf hop h hnone
    exact ⟨rfl, hf⟩
  · obtain rfl := eq_of_step_waitKey_of_some hf hop h hsome
    rfl

end Sys2Proof.Machine

/-! # Memories in canonical form (20_memory.md section 1; log 2) -/

namespace Sys2Proof.Machine

section CanonicalForm

variable {m m' : Memory} {lo a b : Nat} {v w : Byte}

/-! ## The first cell and the cells after it -/

theorem Memory.lookup_cons_self (m : Memory) (a : Nat) (v : Byte) : Memory.lookup ((a, v) :: m) a = some v := if_pos rfl

theorem Memory.lookup_cons_of_ne (m : Memory) (v : Byte) (h : b ≠ a) : Memory.lookup ((a, v) :: m) b = Memory.lookup m b :=
  if_neg h

/-- The cells after one at `a` lie above it. -/
theorem Memory.wfFrom_tail (hm : Memory.wfFrom lo ((a, v) :: m) = true) : Memory.wfFrom (a + 1) m = true :=
  (Bool.and_eq_true_iff.mp hm).2

/-- The first cell has the lowest address listed. -/
theorem Memory.head_le_of_lookup (hm : Memory.wfFrom lo ((a, v) :: m) = true)
    (hb : Memory.lookup ((a, v) :: m) b = some w) : a ≤ b := by
  by_contra hlt
  have hnone : Memory.lookup m b = none := Memory.lookup_eq_none_of_lt (Memory.wfFrom_tail hm) (by omega)
  rw [Memory.lookup_cons_of_ne m v (by omega), hnone] at hb
  cases hb

/-- The rest of the memory lists what the whole does, but nothing at the first cell's address. -/
theorem Memory.lookup_tail (hm : Memory.wfFrom lo ((a, v) :: m) = true) (b : Nat) :
    Memory.lookup m b = if b = a then none else Memory.lookup ((a, v) :: m) b := by
  split
  next hb => exact Memory.lookup_eq_none_of_lt (Memory.wfFrom_tail hm) (by omega)
  next hb => exact (Memory.lookup_cons_of_ne m v hb).symm

/-! ## What is listed determines the first cell, and so every cell -/

theorem Memory.head_eq_of_lookup_eq (hm : Memory.wfFrom lo ((a, v) :: m) = true)
    (hm' : Memory.wfFrom lo ((b, w) :: m') = true)
    (h : ∀ c, Memory.lookup ((a, v) :: m) c = Memory.lookup ((b, w) :: m') c) : a = b ∧ v = w := by
  have hb := (h b).trans (Memory.lookup_cons_self m' b w)
  have ha := (h a).symm.trans (Memory.lookup_cons_self m a v)
  obtain rfl : a = b := le_antisymm (Memory.head_le_of_lookup hm hb) (Memory.head_le_of_lookup hm' ha)
  exact ⟨rfl, Option.some.inj ((Memory.lookup_cons_self m a v).symm.trans hb)⟩

theorem Memory.eq_of_lookup_eq (hm : Memory.wfFrom lo m = true) (hm' : Memory.wfFrom lo m' = true)
    (h : ∀ c, Memory.lookup m c = Memory.lookup m' c) : m = m' := by
  induction m generalizing lo m' with
  | nil =>
    cases m' with
    | nil => rfl
    | cons d m' => cases (h d.1).trans (Memory.lookup_cons_self m' d.1 d.2)
  | cons c m ih =>
    cases m' with
    | nil => cases (h c.1).symm.trans (Memory.lookup_cons_self m c.1 c.2)
    | cons d m' =>
      obtain ⟨a, v⟩ := c
      obtain ⟨b, w⟩ := d
      obtain ⟨rfl, rfl⟩ := Memory.head_eq_of_lookup_eq hm hm' h
      have htail : m = m' := ih (Memory.wfFrom_tail hm) (Memory.wfFrom_tail hm') fun e => by
        rw [Memory.lookup_tail hm, Memory.lookup_tail hm', h]
      rw [htail]

end CanonicalForm

/-- Settles O40: both first cells are the lowest address listed, with its byte, and the rest lists what remains. -/
theorem canonicalMemoriesAreEqualData : Obligations.CanonicalMemoriesAreEqualData :=
  fun _ _ hm hm' h => Memory.eq_of_lookup_eq hm hm' h

end Sys2Proof.Machine
